-- ==== Sys2Proof/Word.lean ====
section
/-! DEFINITION. The plain data every other file speaks about: a level, a frame of 59 bits, one pulse
(spec/00_scope.md rules R8, R10; spec/30_encoding.md rules R60, R61). -/

namespace Sys2Proof

/-- The level the line held during a pulse (30_encoding.md R61): `low` is 0, inactive; `high` is 1, active. -/
inductive Level where
  | low
  | high
  deriving DecidableEq, Repr

/-- A frame: 59 bits in order of arrival, `f[i]` held as bit `i` (00_scope.md R8; 20_memory.md R40;
95_test_vectors.md writes frame A "as a number with f[i] as bit i"). -/
abbrev Frame := BitVec 59

/-- One pulse (30_encoding.md R60). Durations are natural numbers: 00_scope.md R7 lets a model take
them unbounded, and every one that no window holds is Invalid (93_implementation_defined.md U4). -/
structure Pulse where
  level : Level
  durationMs : Nat
  deriving DecidableEq, Repr

end Sys2Proof
end

