-- ==== Sys2Proof/Config.lean ====
section
/-! DEFINITION. The constants of spec/00_scope.md rule R6, under the spec's names, and the default of the
one open parameter `DUR_W` (rule R7). No operation of this block leaves a value undefined, so there is no
free value here. -/

namespace Sys2Proof.Config

/-- `FRAME_LEN`: capacity of the buffer and length of a closed frame. -/
@[simp] abbrev frameLen : Nat := 59
/-- `T_MARK_MIN`, `T_MARK_MAX`: the closed window of a Low pulse that is a minute mark, in ms. -/
@[simp] abbrev tMarkMin : Nat := 600
@[simp] abbrev tMarkMax : Nat := 1400
/-- `T_BIT0_MIN`, `T_BIT0_MAX`: the closed window of a High pulse that is bit 0, in ms. -/
@[simp] abbrev tBit0Min : Nat := 40
@[simp] abbrev tBit0Max : Nat := 130
/-- `T_BIT1_MIN`, `T_BIT1_MAX`: the closed window of a High pulse that is bit 1, in ms. -/
@[simp] abbrev tBit1Min : Nat := 140
@[simp] abbrev tBit1Max : Nat := 250
/-- `IDX_START`: the start-of-minute marker, must be 0. -/
@[simp] abbrev idxStart : Nat := 0
/-- `IDX_DST_A`: the first summer/winter flag; also `is_dst`. -/
@[simp] abbrev idxDstA : Nat := 17
/-- `IDX_DST_B`: the second summer/winter flag. -/
@[simp] abbrev idxDstB : Nat := 18
/-- `IDX_TIME_START`: the start-of-time-information marker, must be 1. -/
@[simp] abbrev idxTimeStart : Nat := 20

/-- An index range `[first, stop)`: first index inside, stop outside (R8). -/
structure Range where
  first : Nat
  stop : Nat
  deriving DecidableEq, Repr

/-- The parity groups. -/
@[simp] abbrev parMin : Range := ⟨21, 29⟩
@[simp] abbrev parHour : Range := ⟨29, 36⟩
@[simp] abbrev parDate : Range := ⟨36, 59⟩
/-- The fields. -/
@[simp] abbrev fMinute : Range := ⟨21, 28⟩
@[simp] abbrev fHour : Range := ⟨29, 35⟩
@[simp] abbrev fDay : Range := ⟨36, 42⟩
@[simp] abbrev fWeekday : Range := ⟨42, 45⟩
@[simp] abbrev fMonth : Range := ⟨45, 50⟩
@[simp] abbrev fYear : Range := ⟨50, 58⟩

/-- `BCD_W[0]` to `BCD_W[7]`. There is no ninth weight (30_encoding.md R72). -/
@[simp] abbrev bcdW : List Nat := [1, 2, 4, 8, 10, 20, 40, 80]

/-- The least width `DUR_W` may have (R7). -/
@[simp] abbrev durWMin : Nat := 11
/-- The default of `DUR_W` (R7), at which spec/opcode_table.json is written (30_encoding.md R78). -/
@[simp] abbrev durW : Nat := 16

end Sys2Proof.Config
end

