-- ==== Sys2Proof/Syntax.lean ====
section
/-! DEFINITION. The operations: one constructor per row of spec/opcode_table.json, nine selected by the
pulse word (spec/30_encoding.md rule R64) and six internal functions (rule R78). -/

namespace Sys2Proof

/-- The classifier's output (30_encoding.md R67): the four symbols are `bit false`, `bit true`,
`minuteMark` and `invalid`. -/
inductive Symbol where
  | bit (b : Bool)
  | minuteMark
  | invalid
  deriving DecidableEq, Repr

/-- The operations of the block. A duration is the pulse's `duration_ms`; the row fixes the level. -/
inductive Instr where
  /-- RESETCMD: duration 0 at either level (44_decoder_top.md R161). -/
  | resetcmd (level : Level)
  /-- INV.LS: Low, shorter than the minute-mark window (R170). -/
  | invLs (durationMs : Nat)
  /-- MARK: Low, inside the minute-mark window (R169). -/
  | mark (durationMs : Nat)
  /-- INV.LL: Low, longer than the minute-mark window (R170). -/
  | invLl (durationMs : Nat)
  /-- INV.HS: High, shorter than the Bit(0) window (R170). -/
  | invHs (durationMs : Nat)
  /-- BIT0: High, inside the Bit(0) window (R167). -/
  | bit0 (durationMs : Nat)
  /-- INV.HG: High, in the gap between the two bit windows (R170). -/
  | invHg (durationMs : Nat)
  /-- BIT1: High, inside the Bit(1) window (R168). -/
  | bit1 (durationMs : Nat)
  /-- INV.HL: High, longer than the Bit(1) window (R170). -/
  | invHl (durationMs : Nat)
  /-- PUSH_IMPULSE: the step function as one call (R160). -/
  | pushImpulse (level : Level) (durationMs : Nat)
  /-- CLASSIFY: the threshold comparator (40_pulse_classifier.md R90). -/
  | classify (level : Level) (durationMs : Nat)
  /-- PUSH: the accumulator (41_frame_accumulator.md R99). -/
  | push (sym : Symbol)
  /-- VALIDATE: the six checks (42_frame_validator.md R120). -/
  | validate (frame : Frame)
  /-- DECODE_BCD: the weighted sum of `count` bits from index `start` (43_field_decoder.md R141). -/
  | decodeBcd (frame : Frame) (start count : Nat)
  /-- DECODE: the field decoder (43_field_decoder.md R140). -/
  | decode (frame : Frame)
  deriving DecidableEq, Repr

end Sys2Proof
end

