-- ==== Sys2Proof/WellFormed.lean ====
section
/-! DEFINITION. When an instruction's operands lie where its row of spec/opcode_table.json puts them, at a
duration width `w` = `DUR_W` (spec/30_encoding.md rule R64; 43_field_decoder.md rule R141). -/

namespace Sys2Proof

/-- `lo <= d <= hi`, both ends inside (30_encoding.md R65). -/
def within (lo hi d : Nat) : Bool := decide (lo ≤ d) && decide (d ≤ hi)

/-- The operand ranges of each row. The greatest duration is `2^w - 1`. CLASSIFY is never given duration 0
(the table's "not 0"); VALIDATE and DECODE take any frame (R120, R151). -/
def Instr.wellFormed (w : Nat) : Instr → Bool
  | .resetcmd _ => true
  | .invLs d => within 1 599 d
  | .mark d => within 600 1400 d
  | .invLl d => within 1401 (2 ^ w - 1) d
  | .invHs d => within 1 39 d
  | .bit0 d => within 40 130 d
  | .invHg d => within 131 139 d
  | .bit1 d => within 140 250 d
  | .invHl d => within 251 (2 ^ w - 1) d
  | .pushImpulse _ d => within 0 (2 ^ w - 1) d
  | .classify _ d => within 1 (2 ^ w - 1) d
  | .push _ => true
  | .validate _ => true
  | .decodeBcd _ start count => within 1 8 count && decide (start + count ≤ 59)
  | .decode _ => true

end Sys2Proof
end

