-- ==== Sys2Proof/Decode.lean ====
section
/-! DEFINITION. The two encodings of spec/30_encoding.md: the pulse word (decoder, the nine rows as a table,
encoder) and the frame (the bits of a calendar time, 43_field_decoder.md rule R152). -/

namespace Sys2Proof

/-- `level` as the bit of rule R61. -/
def Level.toBit : Level → Bool
  | .low => false
  | .high => true

/-- The level a bit stands for (R61). -/
def Level.ofBit : Bool → Level
  | false => .low
  | true => .high

/-- The operation of a pulse (R63, R64): duration 0 first, then the level, then the window that holds the
duration; a duration in no window of its level is one of the five Invalid rows. -/
def decodePulse (p : Pulse) : Instr :=
  if p.durationMs = 0 then .resetcmd p.level
  else
    match p.level with
    | .low =>
      if p.durationMs < Config.tMarkMin then .invLs p.durationMs
      else if p.durationMs ≤ Config.tMarkMax then .mark p.durationMs
      else .invLl p.durationMs
    | .high =>
      if p.durationMs < Config.tBit0Min then .invHs p.durationMs
      else if p.durationMs ≤ Config.tBit0Max then .bit0 p.durationMs
      else if p.durationMs < Config.tBit1Min then .invHg p.durationMs
      else if p.durationMs ≤ Config.tBit1Max then .bit1 p.durationMs
      else .invHl p.durationMs

/-- The packed word of a pulse at width `w` (R62): `level * 2^w + duration_ms`. -/
def packPulse (w : Nat) (p : Pulse) : Nat := p.level.toBit.toNat * 2 ^ w + p.durationMs

/-- The two fields of a word of `w + 1` bits (R62); `none` for a number with more bits. -/
def unpackPulse (w word : Nat) : Option Pulse :=
  if word < 2 ^ (w + 1) then some ⟨Level.ofBit (decide (2 ^ w ≤ word)), word % 2 ^ w⟩ else none

/-- Why a number is no instruction. -/
inductive DecodeError where
  /-- It has more than the `DUR_W + 1` bits of a pulse word (30_encoding.md R62; 60_exceptions.md R203). -/
  | notAPulseWord (word : Nat)
  deriving DecidableEq, Repr

/-- What the decoder answers. -/
inductive Decoded where
  | instr (i : Instr)
  | rejected (e : DecodeError)
  deriving DecidableEq, Repr

/-- The decoder, total on every number: every pulse word is an operation (R66 (e)), and a number that is no
pulse word is rejected by name. -/
def decodeWord (w word : Nat) : Decoded :=
  match unpackPulse w word with
  | some p => .instr (decodePulse p)
  | none => .rejected (.notAPulseWord word)

/-- The pulse a row's instruction stands for; the internal functions have none (R78). -/
def Instr.toPulse : Instr → Option Pulse
  | .resetcmd level => some ⟨level, 0⟩
  | .invLs d => some ⟨.low, d⟩
  | .mark d => some ⟨.low, d⟩
  | .invLl d => some ⟨.low, d⟩
  | .invHs d => some ⟨.high, d⟩
  | .bit0 d => some ⟨.high, d⟩
  | .invHg d => some ⟨.high, d⟩
  | .bit1 d => some ⟨.high, d⟩
  | .invHl d => some ⟨.high, d⟩
  | .pushImpulse _ _ => none
  | .classify _ _ => none
  | .push _ => none
  | .validate _ => none
  | .decodeBcd _ _ _ => none
  | .decode _ => none

/-- The encoder: the packed word of an instruction that the pulse word selects. -/
def encode (w : Nat) (i : Instr) : Option Nat := i.toPulse.map (packPulse w)

/-- The symbol column of R64: what the classifier makes of the row's pulses; RESETCMD is not classified. -/
def Instr.rowSymbol : Instr → Option Symbol
  | .bit0 _ => some (.bit false)
  | .bit1 _ => some (.bit true)
  | .mark _ => some .minuteMark
  | .invLs _ => some .invalid
  | .invLl _ => some .invalid
  | .invHs _ => some .invalid
  | .invHg _ => some .invalid
  | .invHl _ => some .invalid
  | .resetcmd _ => none
  | .pushImpulse _ _ => none
  | .classify _ _ => none
  | .push _ => none
  | .validate _ => none
  | .decodeBcd _ _ _ => none
  | .decode _ => none

/-- The names of the nine rows that a pulse word selects. -/
inductive PulseClass where
  | resetcmd | invLs | mark | invLl | invHs | bit0 | invHg | bit1 | invHl
  deriving DecidableEq, Repr

/-- The row an instruction belongs to. -/
def Instr.pulseClass : Instr → Option PulseClass
  | .resetcmd _ => some .resetcmd
  | .invLs _ => some .invLs
  | .mark _ => some .mark
  | .invLl _ => some .invLl
  | .invHs _ => some .invHs
  | .bit0 _ => some .bit0
  | .invHg _ => some .invHg
  | .bit1 _ => some .bit1
  | .invHl _ => some .invHl
  | .pushImpulse _ _ => none
  | .classify _ _ => none
  | .push _ => none
  | .validate _ => none
  | .decodeBcd _ _ _ => none
  | .decode _ => none

/-- One external row of spec/opcode_table.json: `match`, `mask` and the duration range (R78). -/
structure OpcodeRow where
  row : PulseClass
  pattern : Nat
  mask : Nat
  durationMin : Nat
  durationMax : Nat
  deriving DecidableEq, Repr

/-- R78: `(word & mask) == match` and `duration_min <= duration_ms <= duration_max`, at `DUR_W` = 16. -/
def OpcodeRow.selects (r : OpcodeRow) (word : Nat) : Bool :=
  decide (word &&& r.mask = r.pattern) && within r.durationMin r.durationMax (word % 2 ^ 16)

/-- The nine external rows of spec/opcode_table.json, in its order and with its numbers. -/
def opcodeTable : List OpcodeRow :=
  [ ⟨.resetcmd, 0x00000, 0x0FFFF, 0, 0⟩,
    ⟨.invLs, 0x00000, 0x10000, 1, 599⟩,
    ⟨.mark, 0x00000, 0x10000, 600, 1400⟩,
    ⟨.invLl, 0x00000, 0x10000, 1401, 65535⟩,
    ⟨.invHs, 0x10000, 0x10000, 1, 39⟩,
    ⟨.bit0, 0x10000, 0x10000, 40, 130⟩,
    ⟨.invHg, 0x10000, 0x10000, 131, 139⟩,
    ⟨.bit1, 0x10000, 0x10000, 140, 250⟩,
    ⟨.invHl, 0x10000, 0x10000, 251, 65535⟩ ]

/-- The instruction the decoder reads from an instruction whose bits are `word`, numbered as
spec/opcode_table.json numbers them: the packed word at `DUR_W` = 16. Bits from `nbits` up are 0. -/
def decodeTableWord (nbits word : Nat) : Option Instr :=
  match decodeWord Config.durW (word % 2 ^ nbits) with
  | .instr i => some i
  | .rejected _ => none

/-- The number whose bit `i` is the list's `i`-th entry: the leftmost bit of a frame string is `f[0]` (R8). -/
def bitsToNat : List Bool → Nat
  | [] => 0
  | b :: bs => b.toNat + 2 * bitsToNat bs

/-- The frame a list of bits spells, `f[0]` first. -/
def frameOfBits (bits : List Bool) : Frame := BitVec.ofNat 59 (bitsToNat bits)

/-- The low `n` binary digits of `v`, least significant first. -/
def binaryDigits : Nat → Nat → List Bool
  | 0, _ => []
  | n + 1, v => decide (v % 2 = 1) :: binaryDigits n (v / 2)

/-- The encoding of rule R152: the ones digit in the first `min n 4` positions, the tens digit in the rest,
each in binary, least significant first. -/
def bcdDigits (n v : Nat) : List Bool :=
  binaryDigits (min n 4) (v % 10) ++ binaryDigits (n - 4) (v / 10)

/-- The XOR of a list of bits: the parity bit that makes the group's total even (42_frame_validator.md R128). -/
def parityOf : List Bool → Bool
  | [] => false
  | b :: bs => b ^^ parityOf bs

/-- What a transmitter puts into a frame (30_encoding.md R68): the unexamined bits at 1 to 16 and at 19,
the daylight-saving flag and six calendar values. -/
structure CalendarFields where
  unexamined : BitVec 16
  unexamined19 : Bool
  isDst : Bool
  minute : Nat
  hour : Nat
  dayOfMonth : Nat
  weekday : Nat
  month : Nat
  yearOffset : Nat
  deriving DecidableEq, Repr

/-- The ranges of a well-formed transmission (30_encoding.md R71; 43_field_decoder.md R152). -/
def CalendarFields.wellFormed (c : CalendarFields) : Bool :=
  within 0 59 c.minute && within 0 23 c.hour && within 1 31 c.dayOfMonth && within 1 7 c.weekday &&
    within 1 12 c.month && within 0 99 c.yearOffset

/-- The data bits of the date group, index 36 to 57. -/
def CalendarFields.dateBits (c : CalendarFields) : List Bool :=
  bcdDigits 6 c.dayOfMonth ++ bcdDigits 3 c.weekday ++ bcdDigits 5 c.month ++ bcdDigits 8 c.yearOffset

/-- The 59 bits of a frame in order of arrival: markers, exclusive flags, fields and even parity bits as the
pattern of R68 asks. -/
def CalendarFields.bits (c : CalendarFields) : List Bool :=
  [false] ++ binaryDigits 16 c.unexamined.toNat ++ [c.isDst, !c.isDst, c.unexamined19, true] ++
    bcdDigits 7 c.minute ++ [parityOf (bcdDigits 7 c.minute)] ++
    bcdDigits 6 c.hour ++ [parityOf (bcdDigits 6 c.hour)] ++
    c.dateBits ++ [parityOf c.dateBits]

/-- The frame that carries a calendar time. -/
def encodeFrame (c : CalendarFields) : Frame := frameOfBits c.bits

end Sys2Proof
end

