-- ==== Sys2Proof/Machine/State.lean ====
section
/-! DEFINITION. The state of one Decoder (spec/10_state.md rules R20 to R23), the outputs of its last step
(30_encoding.md rule R74, 60_exceptions.md rule R181), what the host has still to present
(44_decoder_top.md rule R173), and the state after reset (10_state.md rule R34). -/

namespace Sys2Proof.Machine

/-- The result record (30_encoding.md R74), each field an unsigned number of the width the rule gives. -/
structure DecodedTime where
  second : BitVec 6
  minute : BitVec 7
  hour : BitVec 6
  dayOfMonth : BitVec 6
  month : BitVec 5
  yearOffset : BitVec 8
  weekday : BitVec 3
  isDst : Bool
  deriving DecidableEq, Repr

/-- The status output (60_exceptions.md R181). -/
inductive Status where
  /-- A bit was stored; also what the output reads before the first step. -/
  | appended
  /-- A closed frame passed all six checks. -/
  | decoded
  /-- The reset command. -/
  | resetCmd
  /-- A minute mark while the frame is not closed. -/
  | resync
  /-- InvalidPulseDuration. -/
  | invalidPulse
  /-- FrameOverflow. -/
  | overflow
  /-- StructuralViolation. -/
  | structural
  /-- ParityViolation. -/
  | parity
  deriving DecidableEq, Repr

/-- What an internal function of the opcode table returns when it is executed on its own. -/
inductive Value where
  /-- CLASSIFY (40_pulse_classifier.md R90). -/
  | symbol (s : Symbol)
  /-- PUSH (41_frame_accumulator.md R99). -/
  | frame (f : Option Frame)
  /-- VALIDATE (42_frame_validator.md R120). -/
  | verdict (ok : Bool)
  /-- DECODE_BCD (43_field_decoder.md R141). -/
  | sum (n : Nat)
  /-- DECODE (43_field_decoder.md R140). -/
  | time (t : DecodedTime)
  deriving DecidableEq, Repr

/-- The input signals at one clock edge (44_decoder_top.md R173). -/
structure PortSample where
  rst : Bool
  inValid : Bool
  inLevel : Level
  inDuration : Nat
  deriving DecidableEq, Repr

/-- The state. `buf` and `length` are the spec's (R20); the other fields are outputs and inputs, each
described where it stands. -/
structure State where
  /-- The 59 cells, cell `i` as bit `i` (R21). -/
  buf : Frame
  /-- The length counter, 0 to 59 (R22). -/
  length : Fin 60
  /-- The result of the last step, an output (R29). -/
  result : Option DecodedTime
  /-- The status output of the last step (60_exceptions.md R181). -/
  status : Status
  /-- The number of the first failing check, 1 to 6, or 0 (60_exceptions.md R181). -/
  check : Fin 7
  /-- The model's own: the value the last internal function executed on its own returned. -/
  value : Option Value
  /-- The model's own: the port samples not yet taken, oldest first. -/
  input : List PortSample
  deriving DecidableEq, Repr

/-- Why the machine stops with a fault. -/
inductive Fault where
  /-- Raised by DECODE_BCD when `start + count` is above 59: it would read a frame index that does not
  exist (43_field_decoder.md R141; 10_state.md R31). Safe: the spec gives no value there. No step of the
  machine raises it. -/
  | noSuchFrameIndex (start count : Nat)
  deriving DecidableEq, Repr

/-- Why an instruction is refused. -/
inductive Refusal where
  /-- Raised by an arm of exec that has no meaning yet. Safe. No arm raises it in this model. -/
  | notModelled (mnemonic : String)
  /-- Raised by DECODE_BCD for a count outside 1 to 8: the spec gives no ninth weight and says to refuse
  (30_encoding.md R72; 93_implementation_defined.md U5). Safe. No step of the machine raises it. -/
  | bcdCountOutOfDomain (count : Nat)
  deriving DecidableEq, Repr

/-- The state after reset (10_state.md R34). DESIGN CHOICE: the cells of `buf`, which the spec leaves
unspecified, are 0 (log entry 1); `value` and `input` are the model's own and empty (log entries 3, 4). -/
def State.reset : State where
  buf := 0#59
  length := 0
  result := none
  status := .appended
  check := 0
  value := none
  input := []

end Sys2Proof.Machine
end

