-- ==== Sys2Proof/Machine/Ops.lean ====
section
/-! DEFINITION. The named operations: reads and writes of the fields of State, the cells of a frame, the ONE
error entry (spec/60_exceptions.md rule R186), the append, the snapshot, and the input port. -/

namespace Sys2Proof.Machine

/-! The writes of one field. -/

def State.setBuf (s : State) (f : Frame) : State := { s with buf := f }
def State.setLength (s : State) (n : Fin 60) : State := { s with length := n }
def State.setResult (s : State) (r : Option DecodedTime) : State := { s with result := r }
def State.setStatus (s : State) (k : Status) : State := { s with status := k }
def State.setCheck (s : State) (c : Fin 7) : State := { s with check := c }
def State.setValue (s : State) (v : Option Value) : State := { s with value := v }
def State.setInput (s : State) (ps : List PortSample) : State := { s with input := ps }

/-! The cells. -/

/-- `f[i]` (00_scope.md R8, R9). -/
def bitAt (f : Frame) (i : Nat) : Bool := f.getLsbD i

/-- `f` with cell `i` holding `b` and the other cells as before. -/
def setBit (f : Frame) (i : Nat) (b : Bool) : Frame :=
  if b then f ||| (1#59 <<< i) else f &&& ~~~(1#59 <<< i)

/-- `f` with bit `i` inverted. -/
def flipBit (f : Frame) (i : Nat) : Frame := setBit f i (!bitAt f i)

/-- The two named control states (10_state.md R25). -/
inductive ControlState where
  | accumulating (n : Nat)
  | frameClosed
  deriving DecidableEq, Repr

/-- The control state is a function of `length` alone (R25). -/
def controlOf (s : State) : ControlState :=
  if s.length = 59 then .frameClosed else .accumulating s.length.val

/-! What ends a step. -/

/-- The outputs of a step (60_exceptions.md R181). -/
def setOutputs (s : State) (r : Option DecodedTime) (k : Status) (c : Fin 7) : State :=
  ((s.setResult r).setStatus k).setCheck c

/-- The error entry, `raise <Kind>` (60_exceptions.md R186): `length <- 0`, result None, the status set;
nothing is saved and `buf` is not cleared. `c` is the number of the first failing check, 0 for the kinds
that no check raises. There is no return from it (R190). The reset command (44_decoder_top.md R161) and the
resynchronisation (60_exceptions.md R183) have the same effect under their own status. -/
def raise (k : Status) (c : Fin 7) (s : State) : State := setOutputs (s.setLength 0) none k c

/-- The append (41_frame_accumulator.md R104), for `length < 59`: the bit goes to the cell numbered by
`length` before the increment. -/
def appendBit (b : Bool) (s : State) (h : s.length.val < 59) : State :=
  setOutputs ((s.setBuf (setBit s.buf s.length.val b)).setLength ⟨s.length.val + 1, by omega⟩) none .appended 0

/-- A step that returns a time (44_decoder_top.md R164). `length` is already 0 there. -/
def deliver (t : DecodedTime) (s : State) : State := setOutputs s (some t) .decoded 0

/-- The block with no pulse presented (60_exceptions.md R202): `buf` and `length` keep their values. A result
is not kept beyond its step (10_state.md R29, 70_reset_and_hazards.md R220), so the outputs read as before the
first step. DESIGN CHOICE (log entry 5). -/
def park (s : State) : State := setOutputs s none .appended 0

/-- The block while `rst` is 1 (44_decoder_top.md R173; 70_reset_and_hazards.md R210, R211): `length` is 0,
`buf` is not cleared, the outputs read as after reset. -/
def holdReset (s : State) : State := setOutputs (s.setLength 0) none .appended 0

/-! The input port. -/

/-- What the port shows at one clock edge (44_decoder_top.md R173). -/
inductive Presented where
  /-- No pulse: `in_valid` is 0, or the host presents nothing more. -/
  | nothing
  /-- `rst` is 1; `in_valid` is ignored. -/
  | reset
  /-- A pulse: one step is taken. -/
  | pulse (p : Pulse)
  deriving DecidableEq, Repr

/-- R173: `rst` first, then `in_valid`. -/
def readPort (q : PortSample) : Presented :=
  if q.rst then .reset else if q.inValid then .pulse ⟨q.inLevel, q.inDuration⟩ else .nothing

/-- What is presented next. -/
def presented (s : State) : Presented :=
  match s.input with
  | [] => .nothing
  | q :: _ => readPort q

/-- The state with the next sample taken; a pulse is consumed once (10_state.md R30). -/
def takeSample (s : State) : State := s.setInput s.input.tail

/-- The sample by which the host presents a pulse. -/
def samplePulse (p : Pulse) : PortSample := ⟨false, true, p.level, p.durationMs⟩

/-- The sample that the word of a table row stands for; a number that is no pulse word presents nothing. -/
def sampleWord (w word : Nat) : PortSample :=
  match unpackPulse w word with
  | some p => samplePulse p
  | none => ⟨false, false, .low, 0⟩

/-- The state whose next sample is `q`. -/
def presentNext (s : State) (q : PortSample) : State := s.setInput (q :: s.input)

end Sys2Proof.Machine
end

