-- ==== Sys2Proof/Machine/Accumulator.lean ====
section
/-! DEFINITION. FrameAccumulator (spec/41_frame_accumulator.md): PUSH and its five cases, and the
shift-register form of rule R110. -/

namespace Sys2Proof.Machine

/-- PUSH on a bit (R104, R105): append below 59, else FrameOverflow with the bit dropped. -/
def pushBit (b : Bool) (s : State) : State :=
  if h : s.length.val < 59 then appendBit b s h else raise .overflow 0 s

/-- PUSH's pseudocode (R99): the state after, and the frame on a closing mark. On a closing mark the outputs
are left to the stages that follow (95_test_vectors.md V-A8). -/
def push (sym : Symbol) (s : State) : State × Option Frame :=
  match sym with
  | .invalid => (raise .invalidPulse 0 s, none)
  | .minuteMark => if s.length = 59 then (s.setLength 0, some s.buf) else (raise .resync 0 s, none)
  | .bit b => (pushBit b s, none)

/-- The shift-register form (R110): the new bit enters at the top, so that after 59 shifts the oldest bit is
bit 0. -/
def shiftIn (r : Frame) (b : Bool) : Frame := setBit (r >>> 1) 58 b

/-- PUSH executed on its own: the accumulator's effect, and the optional frame returned. -/
def execPush (sym : Symbol) (s : State) : Host.Outcome State Fault Refusal :=
  .next ((push sym s).1.setValue (some (.frame (push sym s).2)))

end Sys2Proof.Machine
end

