-- ==== Sys2Proof/Machine/Classifier.lean ====
section
/-! DEFINITION. PulseClassifier (spec/40_pulse_classifier.md): CLASSIFY, its comparator view, and the 2-bit
code of a symbol (30_encoding.md rule R67). -/

namespace Sys2Proof.Machine

/-- CLASSIFY's pseudocode (R90): pure, total, also for duration 0, where it answers Invalid. -/
def classify (level : Level) (d : Nat) : Symbol :=
  match level with
  | .low => if Config.tMarkMin ≤ d ∧ d ≤ Config.tMarkMax then .minuteMark else .invalid
  | .high =>
    if Config.tBit0Min ≤ d ∧ d ≤ Config.tBit0Max then .bit false
    else if Config.tBit1Min ≤ d ∧ d ≤ Config.tBit1Max then .bit true
    else .invalid

/-- The AND terms of the comparator view (R96). -/
def isMark (level : Level) (d : Nat) : Bool :=
  decide (level = .low) && decide (d ≥ Config.tMarkMin) && decide (d ≤ Config.tMarkMax)
def isBit0 (level : Level) (d : Nat) : Bool :=
  decide (level = .high) && decide (d ≥ Config.tBit0Min) && decide (d ≤ Config.tBit0Max)
def isBit1 (level : Level) (d : Nat) : Bool :=
  decide (level = .high) && decide (d ≥ Config.tBit1Min) && decide (d ≤ Config.tBit1Max)
def isInvalid (level : Level) (d : Nat) : Bool := !(isMark level d || isBit0 level d || isBit1 level d)

/-- The code suggested for the symbol (30_encoding.md R67); nothing observes it. -/
def symbolCode : Symbol → BitVec 2
  | .bit false => 0
  | .bit true => 1
  | .minuteMark => 2
  | .invalid => 3

/-- CLASSIFY executed on its own: it reads and writes no state (R90); its symbol is returned. -/
def execClassify (level : Level) (d : Nat) (s : State) : Host.Outcome State Fault Refusal :=
  .next (s.setValue (some (.symbol (classify level d))))

end Sys2Proof.Machine
end

