-- ==== Sys2Proof/Machine/Operands.lean ====
section
/-! DEFINITION. The operand forms of the field decoder: weighted and plain sums of consecutive frame bits
(spec/30_encoding.md rules R70 to R72; 43_field_decoder.md rules R141, R155). -/

namespace Sys2Proof.Machine

/-- `BCD_W[i]` for `0 <= i <= 7` (30_encoding.md R70). DECODE_BCD refuses a count that would need `i = 8`, so
the 0 beyond the list is never used. -/
def bcdWeight (i : Nat) : Nat := Config.bcdW.getD i 0

/-- `bcd(f, s, n)` (43_field_decoder.md R141): the sum of `f[s+i] * BCD_W[i]` over `i` below `n`. -/
def bcd (f : Frame) (s : Nat) : Nat → Nat
  | 0 => 0
  | n + 1 => bcd f s n + (bitAt f (s + n)).toNat * bcdWeight n

/-- The bits `[s, s + n)` as a plain binary number, least significant first (R155's `ones` and `tens`). -/
def plainBinary (f : Frame) (s : Nat) : Nat → Nat
  | 0 => 0
  | n + 1 => plainBinary f s n + (bitAt f (s + n)).toNat * 2 ^ n

/-- The weighted sum over an index range of 00_scope.md R6. -/
def bcdField (f : Frame) (r : Config.Range) : Nat := bcd f r.first (r.stop - r.first)

end Sys2Proof.Machine
end

