-- ==== Sys2Proof/Machine/FieldDecoder.lean ====
section
/-! DEFINITION. FieldDecoder (spec/43_field_decoder.md): DECODE, DECODE_BCD. -/

namespace Sys2Proof.Machine

/-- DECODE's pseudocode (R140): one line per field, rules R143 to R150; nothing is subtracted from month or
weekday, 2000 is not added to the year. The widths hold every sum (R142; 30_encoding.md R74). -/
def decode (f : Frame) : DecodedTime where
  second := 0
  minute := BitVec.ofNat 7 (bcdField f Config.fMinute)
  hour := BitVec.ofNat 6 (bcdField f Config.fHour)
  dayOfMonth := BitVec.ofNat 6 (bcdField f Config.fDay)
  weekday := BitVec.ofNat 3 (bcdField f Config.fWeekday)
  month := BitVec.ofNat 5 (bcdField f Config.fMonth)
  yearOffset := BitVec.ofNat 8 (bcdField f Config.fYear)
  isDst := bitAt f Config.idxDstA

/-- DECODE_BCD executed on its own (R141), on its domain `1 <= count <= 8` and `start + count <= 59`. A count
outside it is refused (30_encoding.md R72), an index the frame lacks is a fault (10_state.md R31). -/
def execDecodeBcd (f : Frame) (start count : Nat) (s : State) : Host.Outcome State Fault Refusal :=
  if count < 1 ∨ 8 < count then .refused (.bcdCountOutOfDomain count)
  else if 59 < start + count then .fault (.noSuchFrameIndex start count)
  else .next (s.setValue (some (.sum (bcd f start count))))

/-- DECODE executed on its own: total on every frame (R151), reads and writes no state. -/
def execDecode (f : Frame) (s : State) : Host.Outcome State Fault Refusal :=
  .next (s.setValue (some (.time (decode f))))

end Sys2Proof.Machine
end

