-- ==== Sys2Proof/Machine/Flags.lean ====
section
/-! DEFINITION. The one-bit conditions: the XOR trees, the six checks of the validator in order
(spec/42_frame_validator.md rules R121 to R127), and the error kind and check number they report
(60_exceptions.md rules R181, R185, R187). -/

namespace Sys2Proof.Machine

/-- The XOR of the `n` bits from index `a`. -/
def xorBits (f : Frame) (a : Nat) : Nat → Bool
  | 0 => false
  | n + 1 => xorBits f a n ^^ bitAt f (a + n)

/-- `xor(f, a, b)` over the range `[a, b)` (00_scope.md R9). -/
def xorRange (f : Frame) (r : Config.Range) : Bool := xorBits f r.first (r.stop - r.first)

/-- Check 1 (R121): the start-of-minute marker is 0. -/
def check1 (f : Frame) : Bool := !bitAt f Config.idxStart
/-- Check 2 (R122): the start-of-time-information marker is 1. -/
def check2 (f : Frame) : Bool := bitAt f Config.idxTimeStart
/-- Check 3 (R123): exactly one of the two summer/winter flags is set. -/
def check3 (f : Frame) : Bool := bitAt f Config.idxDstA ^^ bitAt f Config.idxDstB
/-- Check 4 (R124): the minute group has even parity. -/
def check4 (f : Frame) : Bool := !xorRange f Config.parMin
/-- Check 5 (R125): the hour group has even parity. -/
def check5 (f : Frame) : Bool := !xorRange f Config.parHour
/-- Check 6 (R126): the date group has even parity. -/
def check6 (f : Frame) : Bool := !xorRange f Config.parDate

/-- VALIDATE's pseudocode (R120): the first failing check answers `false`. -/
def validate (f : Frame) : Bool :=
  if !check1 f then false
  else if !check2 f then false
  else if !check3 f then false
  else if !check4 f then false
  else if !check5 f then false
  else if !check6 f then false
  else true

/-- The number of the first check that fails, in the order 1 to 6, and 0 when none does (R127;
60_exceptions.md R181, R189). -/
def firstFailingCheck (f : Frame) : Fin 7 :=
  if !check1 f then 1
  else if !check2 f then 2
  else if !check3 f then 3
  else if !check4 f then 4
  else if !check5 f then 5
  else if !check6 f then 6
  else 0

/-- The error kind of a failing check: 1 to 3 are structural, 4 to 6 parity (60_exceptions.md R185, R187). -/
def failureKind (c : Fin 7) : Status := if c.val ≤ 3 then .structural else .parity

/-- The 3-bit code of a status (60_exceptions.md R181). -/
def statusCode : Status → BitVec 3
  | .appended => 0
  | .decoded => 1
  | .resetCmd => 2
  | .resync => 3
  | .invalidPulse => 4
  | .overflow => 5
  | .structural => 6
  | .parity => 7

/-- The output signals of 44_decoder_top.md R173: `out_valid` (30_encoding.md R75), `out_status`, `out_check`. -/
def outValid (s : State) : Bool := s.result.isSome
def outStatus (s : State) : BitVec 3 := statusCode s.status
def outCheck (s : State) : BitVec 3 := BitVec.ofNat 3 s.check.val

end Sys2Proof.Machine
end

