-- ==== Sys2Proof/Machine/Validator.lean ====
section
/-! DEFINITION. FrameValidator (spec/42_frame_validator.md): VALIDATE executed on its own. The six checks are
in Machine/Flags.lean. -/

namespace Sys2Proof.Machine

/-- VALIDATE executed on its own (R120): it reads nothing but its operand and writes nothing; its verdict is
returned. The status of a failure is the top level's (R120, 60_exceptions.md R185, R187). -/
def execValidate (f : Frame) (s : State) : Host.Outcome State Fault Refusal :=
  .next (s.setValue (some (.verdict (validate f))))

end Sys2Proof.Machine
end

