-- ==== Sys2Proof/Machine/DecoderTop.lean ====
section
/-! DEFINITION. The Decoder (spec/44_decoder_top.md): PUSH_IMPULSE chains the four components; the nine rows
that a pulse word selects each have a meaning of their own (rules R161, R167 to R170). The duration of a row's
instruction only selects the row: the accumulator is not given it (41_frame_accumulator.md R103). -/

namespace Sys2Proof.Machine

/-- Stages 2 and 3 (R163, R164) on a closed frame, `length` being 0 already: the time of a valid frame, or the
error kind of the first failing check. -/
def judgeFrame (f : Frame) (s : State) : State :=
  if validate f then deliver (decode f) s
  else raise (failureKind (firstFailingCheck f)) (firstFailingCheck f) s

/-- PUSH_IMPULSE's pseudocode (R160). -/
def pushImpulse (level : Level) (d : Nat) (s : State) : State :=
  if d = 0 then raise .resetCmd 0 s
  else
    match push (classify level d) s with
    | (s', none) => s'
    | (s', some f) => judgeFrame f s'

/-- A minute mark (R169): `length` is 0 after it, whatever happened. -/
def minuteMark (s : State) : State :=
  if s.length = 59 then judgeFrame s.buf (s.setLength 0) else raise .resync 0 s

/-- PUSH_IMPULSE as one call. -/
def execPushImpulse (level : Level) (d : Nat) (s : State) : Host.Outcome State Fault Refusal :=
  .next (pushImpulse level d s)

/-- RESETCMD (R161): `level` is ignored; nothing is classified; not an error. -/
def execResetcmd (_level : Level) (s : State) : Host.Outcome State Fault Refusal :=
  .next (raise .resetCmd 0 s)

/-- BIT0 (R167). -/
def execBit0 (_d : Nat) (s : State) : Host.Outcome State Fault Refusal := .next (pushBit false s)

/-- BIT1 (R168). -/
def execBit1 (_d : Nat) (s : State) : Host.Outcome State Fault Refusal := .next (pushBit true s)

/-- MARK (R169). -/
def execMark (_d : Nat) (s : State) : Host.Outcome State Fault Refusal := .next (minuteMark s)

/-- INV.LS (R170): InvalidPulseDuration at every `length`. -/
def execInvLs (_d : Nat) (s : State) : Host.Outcome State Fault Refusal := .next (raise .invalidPulse 0 s)

/-- INV.LL (R170). -/
def execInvLl (_d : Nat) (s : State) : Host.Outcome State Fault Refusal := .next (raise .invalidPulse 0 s)

/-- INV.HS (R170). -/
def execInvHs (_d : Nat) (s : State) : Host.Outcome State Fault Refusal := .next (raise .invalidPulse 0 s)

/-- INV.HG (R170): the gap is not rounded to the nearer window. -/
def execInvHg (_d : Nat) (s : State) : Host.Outcome State Fault Refusal := .next (raise .invalidPulse 0 s)

/-- INV.HL (R170). -/
def execInvHl (_d : Nat) (s : State) : Host.Outcome State Fault Refusal := .next (raise .invalidPulse 0 s)

end Sys2Proof.Machine
end

