-- ==== Sys2Proof/Machine/Dispatch.lean ====
section
/-! DEFINITION. One arm per constructor of Instr: the nine rows a pulse word selects, then the six internal
functions (spec/opcode_table.json). -/

namespace Sys2Proof.Machine

def exec (i : Instr) (s : State) : Host.Outcome State Fault Refusal :=
  match i with
  | .resetcmd level => Sys2Proof.Machine.execResetcmd level s
  | .invLs d => Sys2Proof.Machine.execInvLs d s
  | .mark d => Sys2Proof.Machine.execMark d s
  | .invLl d => Sys2Proof.Machine.execInvLl d s
  | .invHs d => Sys2Proof.Machine.execInvHs d s
  | .bit0 d => Sys2Proof.Machine.execBit0 d s
  | .invHg d => Sys2Proof.Machine.execInvHg d s
  | .bit1 d => Sys2Proof.Machine.execBit1 d s
  | .invHl d => Sys2Proof.Machine.execInvHl d s
  | .pushImpulse level d => Sys2Proof.Machine.execPushImpulse level d s
  | .classify level d => Sys2Proof.Machine.execClassify level d s
  | .push sym => Sys2Proof.Machine.execPush sym s
  | .validate f => Sys2Proof.Machine.execValidate f s
  | .decodeBcd f start count => Sys2Proof.Machine.execDecodeBcd f start count s
  | .decode f => Sys2Proof.Machine.execDecode f s

end Sys2Proof.Machine
end

