-- ==== Sys2Proof/Machine/Step.lean ====
section
/-! DEFINITION. One step (spec/44_decoder_top.md rules R160, R173): take the next port sample; a pulse is
decoded and its operation executed, `rst` holds the block in reset, no pulse leaves it parked. -/

namespace Sys2Proof.Machine

def step (s : State) : Host.Outcome State Fault Refusal :=
  match presented s with
  | .nothing => .next (park (takeSample s))
  | .reset => .next (holdReset (takeSample s))
  | .pulse p => exec (decodePulse p) (takeSample s)

/-- `s` with the pulse of a table word (bits from `nbits` up 0, `DUR_W` = 16) presented next (log entry 4). -/
def State.withFetchWord (s : State) (nbits w : Nat) : State :=
  presentNext s (sampleWord Config.durW (w % 2 ^ nbits))

end Sys2Proof.Machine
end

