-- ==== Sys2Proof/Machine/PulseStream.lean ====
section
/-! DEFINITION. The notation for pulse streams (spec/30_encoding.md rules R76, R77): items, what each expands
to, and their text. -/

namespace Sys2Proof.Machine

/-- One item of a pulse stream: a pulse word, or a pseudo-item. -/
inductive StreamItem where
  | pulse (p : Pulse)
  | b0
  | b1
  | mark
  | rst
  | bad
  | bits (bs : List Bool)
  | frame (bs : List Bool)
  deriving DecidableEq, Repr

/-- `H100` for a 0, `H200` for a 1 (R77). -/
def bitPulse (b : Bool) : Pulse := ⟨.high, if b then 200 else 100⟩

/-- The fixed items each pseudo-item stands for (R77). -/
def expandItem : StreamItem → List Pulse
  | .pulse p => [p]
  | .b0 => [bitPulse false]
  | .b1 => [bitPulse true]
  | .mark => [⟨.low, 1000⟩]
  | .rst => [⟨.low, 0⟩]
  | .bad => [⟨.high, 135⟩]
  | .bits bs => bs.map bitPulse
  | .frame bs => bs.map bitPulse ++ [⟨.low, 1000⟩]

/-- The pulses of a stream, one step each. -/
def expandStream (items : List StreamItem) : List Pulse := items.flatMap expandItem

/-- The value of a non-empty list of decimal digits. -/
def readDecimal (cs : List Char) : Option Nat :=
  if cs.isEmpty then none
  else cs.foldl (fun acc c => acc.bind fun n =>
    if '0' ≤ c ∧ c ≤ '9' then some (10 * n + (c.toNat - '0'.toNat)) else none) (some 0)

/-- The bits of a string of `0` and `1` closed by a parenthesis. -/
def readBits : List Char → Option (List Bool)
  | [')'] => some []
  | '0' :: cs => (readBits cs).map (false :: ·)
  | '1' :: cs => (readBits cs).map (true :: ·)
  | _ => none

/-- The item a word of the notation spells (R76, R77); `FRAME` takes 59 characters. -/
def readItem : List Char → Option StreamItem
  | ['B', '0'] => some .b0
  | ['B', '1'] => some .b1
  | ['M', 'A', 'R', 'K'] => some .mark
  | ['R', 'S', 'T'] => some .rst
  | ['B', 'A', 'D'] => some .bad
  | 'B' :: 'I' :: 'T' :: 'S' :: '(' :: cs => (readBits cs).map .bits
  | 'F' :: 'R' :: 'A' :: 'M' :: 'E' :: '(' :: cs =>
    (readBits cs).bind fun bs => if bs.length = 59 then some (.frame bs) else none
  | 'H' :: cs => (readDecimal cs).map fun d => .pulse ⟨.high, d⟩
  | 'L' :: cs => (readDecimal cs).map fun d => .pulse ⟨.low, d⟩
  | _ => none

/-- The words of a text separated by spaces or line breaks. -/
def splitWords : List Char → List (List Char)
  | [] => [[]]
  | c :: cs =>
    if c = ' ' ∨ c = '\n' then [] :: splitWords cs
    else match splitWords cs with
      | [] => [[c]]
      | w :: ws => (c :: w) :: ws

/-- The items of a text; `none` where some word is no item. -/
def readStream (text : List Char) : Option (List StreamItem) :=
  ((splitWords text).filter fun w => !w.isEmpty).mapM readItem

end Sys2Proof.Machine
end

