-- ==== Sys2Proof/Machine/Receivers.lean ====
section
/-! DEFINITION. Several receivers (spec/60_exceptions.md rule R198): n independent copies of the one-Decoder
model, one of which takes a step. -/

namespace Sys2Proof.Machine

/-- The copies after the `k`-th one takes a step; the others are not touched. -/
def stepReceiver (k : Nat) (rs : List State) : List State :=
  match rs[k]? with
  | none => rs
  | some s =>
    match step s with
    | .next t => rs.set k t
    | .fault _ => rs
    | .refused _ => rs

end Sys2Proof.Machine
end

