-- ==== Sys2Proof/Safety.lean ====
section
/-! DEFINITION. The words claims are stated in: runs over a list of pulses and what is observed of them
(spec/44_decoder_top.md rule R174, 20_memory.md rule R49), the consistency of a step's outputs
(60_exceptions.md rule R181), states no later step can tell apart (10_state.md rule R35). -/

namespace Sys2Proof.Safety

open Sys2Proof.Machine

/-- The outputs of one step. -/
structure StepOutput where
  result : Option DecodedTime
  status : Status
  check : Fin 7
  deriving DecidableEq, Repr

def outputOf (s : State) : StepOutput := ⟨s.result, s.status, s.check⟩

/-- The state after a list of pulses: the fold of the step function (20_memory.md R49 (b)). -/
def feed (ps : List Pulse) (s : State) : State :=
  ps.foldl (fun t p => pushImpulse p.level p.durationMs t) s

/-- What is observed of a run: the outputs, one per pulse (44_decoder_top.md R174). -/
def observe : List Pulse → State → List StepOutput
  | [], _ => []
  | p :: ps, s =>
    let t := pushImpulse p.level p.durationMs s
    outputOf t :: observe ps t

/-- The bit a pulse carries, if it is a bit pulse (40_pulse_classifier.md R91, R92). -/
def pulseBit (p : Pulse) : Option Bool :=
  match classify p.level p.durationMs with
  | .bit b => some b
  | .minuteMark => none
  | .invalid => none

/-- The pulse is a minute mark (R93). -/
def isMarkPulse (p : Pulse) : Bool := decide (classify p.level p.durationMs = .minuteMark)

/-- How many of the bits `[a, b)` are 1. -/
def onesIn (f : Frame) (a b : Nat) : Nat := ((List.range' a (b - a)).filter (bitAt f ·)).length

/-- The positions no check and no field reads (20_memory.md R45). -/
def unexamined (i : Nat) : Bool := within 1 16 i || decide (i = 19)

/-- The positions the field decoder reads (43_field_decoder.md R153). -/
def readByDecode (i : Nat) : Bool :=
  decide (i = 17) || within 21 27 i || within 29 34 i || within 36 57 i

/-- The positions of the markers, of flag B and of the parity bits: each is fixed in a valid frame by the
others (30_encoding.md R68, R69). -/
def fixedPosition (i : Nat) : Bool :=
  decide (i = 0) || decide (i = 18) || decide (i = 20) || decide (i = 28) || decide (i = 35) || decide (i = 58)

/-- Two positions of one parity group (20_memory.md R44). -/
def sameGroup (i j : Nat) : Bool :=
  (within 21 28 i && within 21 28 j) || (within 29 35 i && within 29 35 j) || (within 36 58 i && within 36 58 j)

/-- Two states no later step can tell apart (10_state.md R35): equal `length`, equal cells below it. -/
def SameLive (s t : State) : Prop :=
  s.length = t.length ∧ ∀ i, i < s.length.val → bitAt s.buf i = bitAt t.buf i

/-- The outputs of a step agree with each other and with `length` as the table of 60_exceptions.md R181 says,
a result lies in the ranges the block can output (30_encoding.md R74), and no value of an internal function
outlives a step (10_state.md R30). -/
structure Consistent (s : State) : Prop where
  result_iff : s.result.isSome = true ↔ s.status = .decoded
  check_iff : s.check ≠ 0 ↔ s.status = .structural ∨ s.status = .parity
  structural_check : s.status = .structural → s.check.val ≤ 3
  parity_check : s.status = .parity → 4 ≤ s.check.val
  length_zero : s.status ≠ .appended → s.length = 0
  result_range : ∀ t, s.result = some t →
    t.second = 0 ∧ t.minute.toNat ≤ 85 ∧ t.hour.toNat ≤ 45 ∧ t.dayOfMonth.toNat ≤ 45 ∧
      t.month.toNat ≤ 25 ∧ t.yearOffset.toNat ≤ 165
  no_value : s.value = none

end Sys2Proof.Safety
end

