-- ==== Sys2Proof/Certificates/Slice0/Obligations.lean ====
section
/-! DEFINITION. The statements for the provers. Each docstring names the rule of spec/ it formalises; the
numbers are the spec's own, written out again here and not taken from Config. -/

open Sys2Proof Sys2Proof.Machine Sys2Proof.Safety

/-! ## Encodings -/

/-- 30_encoding.md R62, R64, R78: at every width `DUR_W` from 11, the word of a well-formed instruction decodes
to that instruction; exactly the nine rows of R64 have a word. -/
def Obligations.EncodedInstructionsDecodeToThemselves : Prop :=
  ∀ w i, 11 ≤ w → i.wellFormed w = true →
    (∀ word, encode w i = some word → decodeWord w word = .instr i) ∧
    ((encode w i).isSome = true ↔ i.pulseClass.isSome = true)

/-- 30_encoding.md R64, R66 (e): every pulse word, at every width from 11, is a well-formed operation of one of
the nine rows, and its encoding is the word itself. -/
def Obligations.EveryPulseWordDecodesAndEncodesBack : Prop :=
  ∀ w word, 11 ≤ w → word < 2 ^ (w + 1) →
    ∃ i, decodeWord w word = .instr i ∧ i.wellFormed w = true ∧ i.pulseClass.isSome = true ∧
      encode w i = some word

/-- 30_encoding.md R78: at `DUR_W` = 16 exactly one external row of the opcode table selects a word, and it is
the row of the instruction the decoder reads. -/
def Obligations.OpcodeTableRowsPartitionTheWords : Prop :=
  ∀ word, word < 2 ^ 17 →
    ∃ r i, r ∈ opcodeTable ∧ r.selects word = true ∧
      (∀ r', r' ∈ opcodeTable → r'.selects word = true → r' = r) ∧
      decodeWord 16 word = .instr i ∧ i.pulseClass = some r.row

/-- 30_encoding.md R64, R65: the operation map, row by row, with the symbol column. -/
def Obligations.OperationMapOfThePulseWord : Prop :=
  ∀ w d, 11 ≤ w → d < 2 ^ w →
    (∀ l, d = 0 → decodeWord w (packPulse w ⟨l, d⟩) = .instr (.resetcmd l)) ∧
    (1 ≤ d ∧ d ≤ 599 →
      decodeWord w (packPulse w ⟨.low, d⟩) = .instr (.invLs d) ∧ classify .low d = .invalid) ∧
    (600 ≤ d ∧ d ≤ 1400 →
      decodeWord w (packPulse w ⟨.low, d⟩) = .instr (.mark d) ∧ classify .low d = .minuteMark) ∧
    (1401 ≤ d →
      decodeWord w (packPulse w ⟨.low, d⟩) = .instr (.invLl d) ∧ classify .low d = .invalid) ∧
    (1 ≤ d ∧ d ≤ 39 →
      decodeWord w (packPulse w ⟨.high, d⟩) = .instr (.invHs d) ∧ classify .high d = .invalid) ∧
    (40 ≤ d ∧ d ≤ 130 →
      decodeWord w (packPulse w ⟨.high, d⟩) = .instr (.bit0 d) ∧ classify .high d = .bit false) ∧
    (131 ≤ d ∧ d ≤ 139 →
      decodeWord w (packPulse w ⟨.high, d⟩) = .instr (.invHg d) ∧ classify .high d = .invalid) ∧
    (140 ≤ d ∧ d ≤ 250 →
      decodeWord w (packPulse w ⟨.high, d⟩) = .instr (.bit1 d) ∧ classify .high d = .bit true) ∧
    (251 ≤ d →
      decodeWord w (packPulse w ⟨.high, d⟩) = .instr (.invHl d) ∧ classify .high d = .invalid)

/-- 95_test_vectors.md 2.1: words of the spec's own list, at the ends of the windows, decode as listed. -/
def Obligations.WordsOfTheSpecDecodeAsListed : Prop :=
  decodeWord 16 0x00000 = .instr (.resetcmd .low) ∧
  decodeWord 16 0x10000 = .instr (.resetcmd .high) ∧
  decodeWord 16 0x00257 = .instr (.invLs 599) ∧
  decodeWord 16 0x00258 = .instr (.mark 600) ∧
  decodeWord 16 0x00579 = .instr (.invLl 1401) ∧
  decodeWord 16 0x10027 = .instr (.invHs 39) ∧
  decodeWord 16 0x10028 = .instr (.bit0 40) ∧
  decodeWord 16 0x10087 = .instr (.invHg 135) ∧
  decodeWord 16 0x100FA = .instr (.bit1 250) ∧
  decodeWord 16 0x1FFFF = .instr (.invHl 65535)

/-- The model's choice (log entry 6), not a rule of the spec: the word decoder rejects a number with more than
`DUR_W + 1` bits under the name notAPulseWord. The spec gives the packed word its `DUR_W + 1` bits (30_encoding.md,
section 1) and lets a model refuse what that format cannot hold (92_eei_decisions.md D3, D20;
93_implementation_defined.md U4). -/
def Obligations.NumbersBeyondThePulseWordAreRejected : Prop :=
  ∀ w word, 2 ^ (w + 1) ≤ word → decodeWord w word = .rejected (.notAPulseWord word)

/-- 30_encoding.md R63, R64, 40_pulse_classifier.md R90: for a pulse that is classified, the symbol of the row
the decoder selects is the symbol the classifier gives. -/
def Obligations.DecodedRowHasTheClassifiersSymbol : Prop :=
  ∀ p : Pulse, p.durationMs ≠ 0 → (decodePulse p).rowSymbol = some (classify p.level p.durationMs)

/-! ## PulseClassifier -/

/-- 40_pulse_classifier.md R91 to R95: CLASSIFY completes on every operand, returns the symbol of the window and
changes no state. -/
def Obligations.ClassifyReturnsTheSymbolOfTheWindow : Prop :=
  ∀ (l : Level) (d : Nat) (s : State), ∃ sym,
    exec (.classify l d) s = .next { s with value := some (.symbol sym) } ∧
    (sym = .bit false ↔ l = .high ∧ 40 ≤ d ∧ d ≤ 130) ∧
    (sym = .bit true ↔ l = .high ∧ 140 ≤ d ∧ d ≤ 250) ∧
    (sym = .minuteMark ↔ l = .low ∧ 600 ≤ d ∧ d ≤ 1400) ∧
    (sym = .invalid ↔ (l = .low ∧ (d < 600 ∨ 1400 < d)) ∨
      (l = .high ∧ (d < 40 ∨ (131 ≤ d ∧ d ≤ 139) ∨ 250 < d)))

/-- 40_pulse_classifier.md R96: the comparator view agrees with CLASSIFY, and at most one of the three AND terms
is 1. -/
def Obligations.ComparatorViewAgreesWithClassify : Prop :=
  ∀ (l : Level) (d : Nat),
    (isMark l d = true ↔ classify l d = .minuteMark) ∧
    (isBit0 l d = true ↔ classify l d = .bit false) ∧
    (isBit1 l d = true ↔ classify l d = .bit true) ∧
    (isInvalid l d = true ↔ classify l d = .invalid) ∧
    (isMark l d && isBit0 l d) = false ∧ (isMark l d && isBit1 l d) = false ∧
    (isBit0 l d && isBit1 l d) = false

/-! ## FrameAccumulator -/

/-- 41_frame_accumulator.md R100: PUSH on Invalid, at every `length`. That PUSH executed on its own drives the
outputs (result none, status INVALID_PULSE, check 0) is the model's choice (log entry 3). -/
def Obligations.PushOnInvalidDropsTheFrame : Prop :=
  ∀ s : State, ∃ t, exec (.push .invalid) s = .next t ∧
    t.length = 0 ∧ t.buf = s.buf ∧ t.value = some (.frame none) ∧
    t.result = none ∧ t.status = .invalidPulse ∧ t.check = 0

/-- 41_frame_accumulator.md R101: PUSH on MinuteMark with the frame not closed. That PUSH executed on its own drives
the outputs (result none, status RESYNC, check 0) is the model's choice (log entry 3). -/
def Obligations.PushOnPrematureMarkResynchronises : Prop :=
  ∀ s : State, s.length ≠ 59 → ∃ t, exec (.push .minuteMark) s = .next t ∧
    t.length = 0 ∧ t.buf = s.buf ∧ t.value = some (.frame none) ∧
    t.result = none ∧ t.status = .resync ∧ t.check = 0

/-- 41_frame_accumulator.md R102: PUSH on MinuteMark with the frame closed emits the 59 cells; no other case
returns a frame. -/
def Obligations.PushOnClosingMarkEmitsTheFrame : Prop :=
  (∀ s : State, s.length = 59 → ∃ t f, exec (.push .minuteMark) s = .next t ∧
    t.length = 0 ∧ t.buf = s.buf ∧ t.value = some (.frame (some f)) ∧
    ∀ i, i < 59 → bitAt f i = bitAt s.buf i) ∧
  ∀ (sym : Symbol) (s t : State) (f : Frame), exec (.push sym) s = .next t →
    t.value = some (.frame (some f)) → sym = .minuteMark ∧ s.length = 59

/-- 41_frame_accumulator.md R104: PUSH on a bit with room left appends it at `length`. That PUSH executed on its own
drives the outputs (result none, status APPENDED, check 0) is the model's choice (log entry 3). -/
def Obligations.PushOnBitAppendsAtLength : Prop :=
  ∀ (b : Bool) (s : State), s.length.val < 59 → ∃ t, exec (.push (.bit b)) s = .next t ∧
    bitAt t.buf s.length.val = b ∧
    (∀ i, i ≠ s.length.val → bitAt t.buf i = bitAt s.buf i) ∧
    t.length.val = s.length.val + 1 ∧ t.value = some (.frame none) ∧
    t.result = none ∧ t.status = .appended ∧ t.check = 0

/-- 41_frame_accumulator.md R105: PUSH on a bit with the frame closed overflows; the bit is dropped. That PUSH
executed on its own drives the outputs (result none, status OVERFLOW, check 0) is the model's choice (log entry 3). -/
def Obligations.PushOnBitOverflowsAtFiftyNine : Prop :=
  ∀ (b : Bool) (s : State), s.length = 59 → ∃ t, exec (.push (.bit b)) s = .next t ∧
    t.length = 0 ∧ t.buf = s.buf ∧ t.value = some (.frame none) ∧
    t.result = none ∧ t.status = .overflow ∧ t.check = 0

/-- The frame of PUSH (41_frame_accumulator.md R99, "State written"): only a bit stored below 59 changes a cell,
and only the cell numbered by `length`. That the outputs stay as they were on a closing mark is the model's
choice (log entry 3). -/
def Obligations.PushLeavesTheRestUnchanged : Prop :=
  ∀ (sym : Symbol) (s t : State), exec (.push sym) s = .next t →
    t.input = s.input ∧
    (∀ i, i ≠ s.length.val → bitAt t.buf i = bitAt s.buf i) ∧
    ((s.length = 59 ∨ sym = .minuteMark ∨ sym = .invalid) → t.buf = s.buf) ∧
    (s.length = 59 ∧ sym = .minuteMark →
      t.result = s.result ∧ t.status = s.status ∧ t.check = s.check)

/-! ## FrameValidator -/

/-- 42_frame_validator.md R120 (total, no state) with R121, R122 (the two markers), R123 (the exclusive flags), R124,
R125, R126 (the three groups) and R128 (even parity, counted over the group with its parity bit): VALIDATE completes
on every frame, changes no state, and its verdict is exactly these six conditions. -/
def Obligations.ValidateIsMarkersFlagsAndEvenParity : Prop :=
  ∀ (f : Frame) (s : State), ∃ ok,
    exec (.validate f) s = .next { s with value := some (.verdict ok) } ∧
    (ok = true ↔
      bitAt f 0 = false ∧ bitAt f 20 = true ∧ bitAt f 17 ≠ bitAt f 18 ∧
      onesIn f 21 29 % 2 = 0 ∧ onesIn f 29 36 % 2 = 0 ∧ onesIn f 36 59 % 2 = 0)

/-- 42_frame_validator.md R120, R127, 60_exceptions.md R189: the number reported is that of the first check that
fails, in the order 1 to 6, and 0 exactly for a valid frame. -/
def Obligations.FirstFailingCheckFollowsTheOrder : Prop :=
  ∀ f : Frame,
    (firstFailingCheck f = 0 ↔ validate f = true) ∧
    (firstFailingCheck f = 1 ↔ bitAt f 0 = true) ∧
    (firstFailingCheck f = 2 ↔ bitAt f 0 = false ∧ bitAt f 20 = false) ∧
    (firstFailingCheck f = 3 ↔ bitAt f 0 = false ∧ bitAt f 20 = true ∧ bitAt f 17 = bitAt f 18) ∧
    (4 ≤ (firstFailingCheck f).val ↔
      bitAt f 0 = false ∧ bitAt f 20 = true ∧ bitAt f 17 ≠ bitAt f 18 ∧ validate f = false) ∧
    (firstFailingCheck f = 4 → onesIn f 21 29 % 2 = 1) ∧
    (firstFailingCheck f = 5 → onesIn f 21 29 % 2 = 0 ∧ onesIn f 29 36 % 2 = 1) ∧
    (firstFailingCheck f = 6 → onesIn f 21 29 % 2 = 0 ∧ onesIn f 29 36 % 2 = 0 ∧ onesIn f 36 59 % 2 = 1)

/-- 42_frame_validator.md R130 (a), (b), (c): one flipped bit at any examined position makes a valid frame
invalid; one at an unexamined position changes neither the verdict nor the time. -/
def Obligations.OneFlippedBitIsDetectedWhereExamined : Prop :=
  ∀ (f : Frame) (i : Nat), validate f = true → i < 59 →
    (unexamined i = false → validate (flipBit f i) = false) ∧
    (unexamined i = true → validate (flipBit f i) = true ∧ decode (flipBit f i) = decode f)

/-- 42_frame_validator.md R130 (d), (e): two flipped bits of one parity group pass, and both summer/winter flags
flipped pass and invert `is_dst` alone. -/
def Obligations.TwoFlippedBitsOfOneGroupPass : Prop :=
  ∀ f : Frame, validate f = true →
    (∀ i j, i ≠ j → sameGroup i j = true → validate (flipBit (flipBit f i) j) = true) ∧
    validate (flipBit (flipBit f 17) 18) = true ∧
    decode (flipBit (flipBit f 17) 18) = { decode f with isDst := !(decode f).isDst }

/-- 30_encoding.md R69: the 53 positions that are no marker, flag B or parity bit can be chosen freely, and each
choice is completed by exactly one valid frame. -/
def Obligations.FiftyThreeFreeBitsDetermineAValidFrame : Prop :=
  ∀ f : Frame, ∃ g : Frame,
    (validate g = true ∧ ∀ i, i < 59 → fixedPosition i = false → bitAt g i = bitAt f i) ∧
    ∀ h : Frame, (validate h = true ∧ ∀ i, i < 59 → fixedPosition i = false → bitAt h i = bitAt f i) → h = g

/-! ## FieldDecoder -/

/-- 43_field_decoder.md R141: DECODE_BCD completes on its domain with the weighted sum, and changes no state. -/
def Obligations.DecodeBcdReturnsTheWeightedSum : Prop :=
  ∀ (f : Frame) (start n : Nat) (s : State), 1 ≤ n → n ≤ 8 → start + n ≤ 59 →
    exec (.decodeBcd f start n) s = .next { s with value := some (.sum
      ((List.range n).map fun i =>
        (bitAt f (start + i)).toNat * [1, 2, 4, 8, 10, 20, 40, 80].getD i 0).sum) }

/-- Outside its domain (43_field_decoder.md R141) DECODE_BCD stops by name: a count outside 1 to 8 is refused
(30_encoding.md R72 asks this above 8), a read beyond the frame is a fault. The refusal of the count 0 and the fault
are the model's choice (log entry 8). -/
def Obligations.DecodeBcdStopsOutsideItsDomain : Prop :=
  ∀ (f : Frame) (start n : Nat) (s : State),
    (n < 1 ∨ 8 < n → exec (.decodeBcd f start n) s = .refused (.bcdCountOutOfDomain n)) ∧
    (1 ≤ n ∧ n ≤ 8 ∧ 59 < start + n → exec (.decodeBcd f start n) s = .fault (.noSuchFrameIndex start n))

/-- 43_field_decoder.md R142: the largest sums, reached by all bits 1; out-of-range fields are decoded. -/
def Obligations.LargestWeightedSums : Prop :=
  (∀ (f : Frame) (start n : Nat), 1 ≤ n → n ≤ 8 →
    bcd f start n ≤ [1, 3, 7, 15, 25, 45, 85, 165].getD (n - 1) 0 ∧
    ((∀ i, i < n → bitAt f (start + i) = true) →
      bcd f start n = [1, 3, 7, 15, 25, 45, 85, 165].getD (n - 1) 0)) ∧
  ∃ f : Frame, validate f = true ∧ (decode f).minute = 85 ∧ (decode f).hour = 45 ∧
    (decode f).dayOfMonth = 45 ∧ (decode f).month = 25 ∧ (decode f).yearOffset = 165

/-- 43_field_decoder.md R155: the weighted sum is the ones digit plus ten times the tens digit, each read as
plain binary, on every input. -/
def Obligations.WeightedSumIsOnesPlusTenTimesTens : Prop :=
  ∀ (f : Frame) (start n : Nat), 1 ≤ n → n ≤ 8 →
    bcd f start n = plainBinary f start (min n 4) + 10 * plainBinary f (start + 4) (n - 4)

/-- 43_field_decoder.md R152: every value of a field's valid range, written in the weighted layout, is read
back unchanged. -/
def Obligations.CalendarValuesSurviveTheWeightedLayout : Prop :=
  ∀ (f : Frame) (start n v : Nat), start + n ≤ 59 →
    ((n = 7 ∧ v ≤ 59) ∨ (n = 6 ∧ v ≤ 31) ∨ (n = 5 ∧ 1 ≤ v ∧ v ≤ 12) ∨ (n = 8 ∧ v ≤ 99) ∨
      (n = 3 ∧ 1 ≤ v ∧ v ≤ 7)) →
    (∀ i, i < n → bitAt f (start + i) = (bcdDigits n v).getD i false) → bcd f start n = v

/-- 43_field_decoder.md R140, R143 to R150: DECODE changes no state, and its fields are the raw weighted sums, whole,
in the widths of 30_encoding.md R74 and within the possible ranges. It completes on every frame, also on one that
fails validation, as R151 lets a model define it. -/
def Obligations.DecodeReturnsTheRawFields : Prop :=
  ∀ (f : Frame) (s : State), ∃ t,
    exec (.decode f) s = .next { s with value := some (.time t) } ∧
    t.second = 0 ∧ t.minute.toNat = bcd f 21 7 ∧ t.hour.toNat = bcd f 29 6 ∧
    t.dayOfMonth.toNat = bcd f 36 6 ∧ t.weekday.toNat = bcd f 42 3 ∧ t.month.toNat = bcd f 45 5 ∧
    t.yearOffset.toNat = bcd f 50 8 ∧ t.isDst = bitAt f 17 ∧
    t.minute.toNat ≤ 85 ∧ t.hour.toNat ≤ 45 ∧ t.dayOfMonth.toNat ≤ 45 ∧ t.weekday.toNat ≤ 7 ∧
    t.month.toNat ≤ 25 ∧ t.yearOffset.toNat ≤ 165

/-- 43_field_decoder.md R153: the field decoder reads no other position than these. -/
def Obligations.DecodeReadsOnlyItsFields : Prop :=
  ∀ f g : Frame, (∀ i, readByDecode i = true → bitAt f i = bitAt g i) → decode f = decode g

/-- 42_frame_validator.md R129, 43_field_decoder.md R152, 30_encoding.md R68: a frame built for calendar values
in their ranges, with correct markers, flags and parity bits and any unexamined bits, is valid and decodes to
exactly those values. -/
def Obligations.TransmittedCalendarTimesDecodeToThemselves : Prop :=
  ∀ c : CalendarFields, c.wellFormed = true →
    validate (encodeFrame c) = true ∧
    (decode (encodeFrame c)).second = 0 ∧
    (decode (encodeFrame c)).minute.toNat = c.minute ∧ (decode (encodeFrame c)).hour.toNat = c.hour ∧
    (decode (encodeFrame c)).dayOfMonth.toNat = c.dayOfMonth ∧
    (decode (encodeFrame c)).weekday.toNat = c.weekday ∧ (decode (encodeFrame c)).month.toNat = c.month ∧
    (decode (encodeFrame c)).yearOffset.toNat = c.yearOffset ∧ (decode (encodeFrame c)).isDst = c.isDst

/-! ## The external operations -/

/-- 44_decoder_top.md R161: RESETCMD, at either level and every `length`; no later step can tell the state after
it from the state after construction. -/
def Obligations.ResetCommandEmptiesTheFrame : Prop :=
  ∀ (l : Level) (s : State), decodePulse ⟨l, 0⟩ = .resetcmd l ∧
    ∃ t, exec (.resetcmd l) s = .next t ∧
      t.length = 0 ∧ t.buf = s.buf ∧ t.result = none ∧ t.status = .resetCmd ∧ t.check = 0 ∧
      ∀ ps, observe ps t = observe ps State.reset

/-- 44_decoder_top.md R167: BIT0 stores a 0 at `length`, or overflows at 59. -/
def Obligations.BitZeroIsStoredOrOverflows : Prop :=
  ∀ (d : Nat) (s : State), 40 ≤ d → d ≤ 130 → decodePulse ⟨.high, d⟩ = .bit0 d ∧
    ∃ t, exec (.bit0 d) s = .next t ∧ t.result = none ∧
      (s.length.val < 59 → bitAt t.buf s.length.val = false ∧ t.length.val = s.length.val + 1 ∧
        (∀ i, i ≠ s.length.val → bitAt t.buf i = bitAt s.buf i) ∧ t.status = .appended ∧ t.check = 0) ∧
      (s.length = 59 → t.length = 0 ∧ t.buf = s.buf ∧ t.status = .overflow ∧ t.check = 0)

/-- 44_decoder_top.md R168: BIT1 stores a 1 at `length`, or overflows at 59. -/
def Obligations.BitOneIsStoredOrOverflows : Prop :=
  ∀ (d : Nat) (s : State), 140 ≤ d → d ≤ 250 → decodePulse ⟨.high, d⟩ = .bit1 d ∧
    ∃ t, exec (.bit1 d) s = .next t ∧ t.result = none ∧
      (s.length.val < 59 → bitAt t.buf s.length.val = true ∧ t.length.val = s.length.val + 1 ∧
        (∀ i, i ≠ s.length.val → bitAt t.buf i = bitAt s.buf i) ∧ t.status = .appended ∧ t.check = 0) ∧
      (s.length = 59 → t.length = 0 ∧ t.buf = s.buf ∧ t.status = .overflow ∧ t.check = 0)

/-- 44_decoder_top.md R169: MARK empties the frame whatever happens, and returns a time exactly when the frame
was closed and valid. -/
def Obligations.MarkReturnsATimeExactlyForAClosedValidFrame : Prop :=
  ∀ (d : Nat) (s : State), 600 ≤ d → d ≤ 1400 → decodePulse ⟨.low, d⟩ = .mark d ∧
    ∃ t, exec (.mark d) s = .next t ∧ t.length = 0 ∧ t.buf = s.buf ∧
      t.result = (if s.length = 59 ∧ validate s.buf = true then some (decode s.buf) else none) ∧
      (s.length ≠ 59 → t.status = .resync ∧ t.check = 0) ∧
      (s.length = 59 ∧ validate s.buf = true → t.status = .decoded ∧ t.check = 0) ∧
      (s.length = 59 ∧ validate s.buf = false → t.status = .structural ∨ t.status = .parity)

/-- 60_exceptions.md R185 with 42_frame_validator.md R121, R122, R123: a closed frame with a wrong marker or with
flags that are not exclusive is a StructuralViolation; `check` is the first that fails. -/
def Obligations.StructuralViolationIsReportedFirst : Prop :=
  ∀ (d : Nat) (s : State), s.length = 59 →
    (bitAt s.buf 0 = true ∨ bitAt s.buf 20 = false ∨ bitAt s.buf 17 = bitAt s.buf 18) →
    ∃ t, exec (.mark d) s = .next t ∧ t.length = 0 ∧ t.result = none ∧ t.status = .structural ∧
      t.check.val = if bitAt s.buf 0 = true then 1 else if bitAt s.buf 20 = false then 2 else 3

/-- 60_exceptions.md R187 with 42_frame_validator.md R124, R125, R126: a closed frame whose markers and flags hold
and whose parity is odd in some group is a ParityViolation; `check` is the first that fails. -/
def Obligations.ParityViolationIsReportedByGroup : Prop :=
  ∀ (d : Nat) (s : State), s.length = 59 →
    bitAt s.buf 0 = false → bitAt s.buf 20 = true → bitAt s.buf 17 ≠ bitAt s.buf 18 →
    (onesIn s.buf 21 29 % 2 = 1 ∨ onesIn s.buf 29 36 % 2 = 1 ∨ onesIn s.buf 36 59 % 2 = 1) →
    ∃ t, exec (.mark d) s = .next t ∧ t.length = 0 ∧ t.result = none ∧ t.status = .parity ∧
      t.check.val = if onesIn s.buf 21 29 % 2 = 1 then 4 else if onesIn s.buf 29 36 % 2 = 1 then 5 else 6

/-- 60_exceptions.md R182, R186: each of the five INV rows drops the frame at every `length`. -/
def Obligations.InvalidPulsesDropTheFrame : Prop :=
  ∀ (i : Instr) (d : Nat) (s : State),
    (i = .invLs d ∨ i = .invLl d ∨ i = .invHs d ∨ i = .invHg d ∨ i = .invHl d) →
    ∃ t, exec i s = .next t ∧
      t.length = 0 ∧ t.buf = s.buf ∧ t.result = none ∧ t.status = .invalidPulse ∧ t.check = 0

/-- 44_decoder_top.md R160 against R161 and R167 to R170: the step function, chained from the four components,
and the operation of the row that the pulse selects answer the same next state, for every pulse and state. -/
def Obligations.PushImpulseEqualsTheRowOfThePulse : Prop :=
  ∀ (l : Level) (d : Nat) (s : State), ∃ t,
    exec (.pushImpulse l d) s = .next t ∧ exec (decodePulse ⟨l, d⟩) s = .next t

/-! ## One step of the machine -/

/-- 44_decoder_top.md R160, R173: with `rst` 0 and `in_valid` 1, step is exec of the instruction the pulse decodes to.
That the samples stand in a list `input` and that the step takes the first is the model's choice (log entry 4). -/
def Obligations.StepRunsTheDecodedPulse : Prop :=
  ∀ (s : State) (q : PortSample) (rest : List PortSample) (i : Instr),
    s.input = q :: rest → q.rst = false → q.inValid = true → decodePulse ⟨q.inLevel, q.inDuration⟩ = i →
    step s = exec i { s with input := rest }

/-- The word of a table row, presented, is what the next step runs (30_encoding.md R78). How a word is presented
is the model's choice (log entry 4). -/
def Obligations.PresentedTableWordIsRunNext : Prop :=
  ∀ (s : State) (nbits w : Nat) (i : Instr), decodeTableWord nbits w = some i →
    step (s.withFetchWord nbits w) = exec i s

/-- 44_decoder_top.md R165: every step returns; none faults, blocks or is refused. That it takes one sample of
`input`, also while `rst` is 1 and where no pulse is presented, is the model's choice (log entry 4). -/
def Obligations.EveryStepReturns : Prop :=
  ∀ s : State, ∃ t, step s = .next t ∧ t.input = s.input.tail

/-- 70_reset_and_hazards.md R210, R211: while `rst` is 1 the block is in its reset state and a pulse presented
is ignored; no result is produced. What the status output shows then is the model's choice (log entry 5). -/
def Obligations.ExternalResetIgnoresThePulse : Prop :=
  ∀ (s : State) (q : PortSample) (rest : List PortSample), s.input = q :: rest → q.rst = true →
    ∃ t, step s = .next t ∧ t.length = 0 ∧ t.buf = s.buf ∧ t.result = none ∧ t.input = rest

/-- 60_exceptions.md R202, 70_reset_and_hazards.md R220: with no pulse presented `buf` and `length` keep their
values and an earlier result is not repeated. What the outputs read then is the model's choice (log entry 5). -/
def Obligations.NoPulseParksTheBlock : Prop :=
  ∀ s : State,
    (s.input = [] ∨ ∃ q rest, s.input = q :: rest ∧ q.rst = false ∧ q.inValid = false) →
    ∃ t, step s = .next t ∧ t.buf = s.buf ∧ t.length = s.length ∧ t.result = none

/-- 10_state.md R34: the values the spec gives for reset. -/
def Obligations.ResetValuesOfTheSpec : Prop :=
  State.reset.length = 0 ∧ State.reset.result = none ∧ statusCode State.reset.status = 0 ∧
    State.reset.check = 0 ∧ controlOf State.reset = .accumulating 0

/-- 60_exceptions.md R181, 30_encoding.md R74, 10_state.md R30: every step keeps the outputs consistent with each other
and with `length`, and no internal value outlives a step. The fields that hold the outputs and the internal value are
the model's choice (log entries 2, 3), and so are the outputs of a step that takes no pulse (log entry 5). -/
def Obligations.StepKeepsTheOutputsConsistent : Prop :=
  ∀ s t : State, Consistent s → step s = .next t → Consistent t

/-- The invariant holds at reset (10_state.md R34; `value` is the model's own, log entry 3). -/
def Obligations.ResetStateIsConsistent : Prop := Consistent State.reset

/-! ## Runs of pulses -/

/-- 20_memory.md R49: `k` steps of the machine over `k` presented pulses are the fold of PUSH_IMPULSE over them. The
list `input` is the model's choice (log entry 4). -/
def Obligations.StepsOverPulsesAreTheFoldOfPushImpulse : Prop :=
  ∀ (ps : List Pulse) (s : State) (rest : List PortSample), s.input = ps.map samplePulse ++ rest →
    Sys2Proof.core.run ps.length s = .next (feed ps { s with input := rest })

/-- 10_state.md R35, R32: two states with equal `length` and equal cells below it give the same outputs on every
pulse stream; stale cells, and their values at reset, are never observed. -/
def Obligations.StaleCellsAreNeverObserved : Prop :=
  ∀ (ps : List Pulse) (s t : State), SameLive s t → observe ps s = observe ps t

/-- 10_state.md R23 (b): after any pulses, the cells below `length` hold the bits of exactly the last `length`
pulses, in order, and the step before those left `length` at 0. -/
def Obligations.BufferHoldsTheBitsSinceTheLastReset : Prop :=
  ∀ (ps : List Pulse) (s : State), s.length = 0 →
    ∃ before since, ps = before ++ since ∧ (feed before s).length = 0 ∧
      since.length = (feed ps s).length.val ∧
      ∀ i, i < (feed ps s).length.val → ∃ p, since[i]? = some p ∧ pulseBit p = some (bitAt (feed ps s).buf i)

/-- 44_decoder_top.md R172, 41_frame_accumulator.md R108: a step returns a time exactly when it is a minute mark,
the 59 steps before it were bits that began at `length` 0, and those bits form a valid frame; the time is the
decode of those bits. -/
def Obligations.ATimeAppearsExactlyAfterAValidFrame : Prop :=
  ∀ (ps : List Pulse) (m : Pulse) (s : State) (t : DecodedTime), s.length = 0 →
    ((feed (ps ++ [m]) s).result = some t ↔
      isMarkPulse m = true ∧ ∃ before since bits, ps = before ++ since ∧ (feed before s).length = 0 ∧
        since.length = 59 ∧ since.map pulseBit = bits.map some ∧
        validate (frameOfBits bits) = true ∧ t = decode (frameOfBits bits))

/-- 44_decoder_top.md R172, 70_reset_and_hazards.md R214: after a time, and after reset, the next 59 steps return
none. -/
def Obligations.NoTimeWithinFiftyNineSteps : Prop :=
  ∀ (ps : List Pulse) (s : State), ps ≠ [] → ps.length ≤ 59 →
    (s.length = 0 ∨ (Consistent s ∧ s.result.isSome = true)) →
    (feed ps s).result = none

/-- 41_frame_accumulator.md R107, 10_state.md R25: from FRAME_CLOSED every pulse leads to ACCUMULATING(0), and
only a minute mark can return a time. -/
def Obligations.AClosedFrameSurvivesOneStep : Prop :=
  ∀ (l : Level) (d : Nat) (s : State), controlOf s = .frameClosed →
    ∃ t, exec (.pushImpulse l d) s = .next t ∧ controlOf t = .accumulating 0 ∧
      (t.result.isSome = true → d ≠ 0 ∧ classify l d = .minuteMark)

/-- 10_state.md R24, 70_reset_and_hazards.md R216: `length` advances by exactly 1 on a bit below 59 and is set to
0 by every other pulse, whatever its level and duration. -/
def Obligations.LengthAdvancesByOneOrIsCleared : Prop :=
  ∀ (l : Level) (d : Nat) (s : State), ∃ t, exec (.pushImpulse l d) s = .next t ∧
    t.length.val = if (pulseBit ⟨l, d⟩).isSome = true ∧ s.length.val < 59 then s.length.val + 1 else 0

/-- 41_frame_accumulator.md R110: 59 bits shifted into a register that presents the oldest as `f[0]` give the
same frame as 59 indexed writes from `length` 0. -/
def Obligations.ShiftRegisterGivesTheSameFrame : Prop :=
  ∀ (bits : List Bool) (s : State) (r : Frame), bits.length = 59 → s.length = 0 →
    (bits.foldl (fun t b => pushBit b t) s).length = 59 ∧
    (bits.foldl (fun t b => pushBit b t) s).buf = bits.foldl shiftIn r

/-- 20_memory.md R45: cells that no check and no field reads cannot change any output of any run. -/
def Obligations.UnexaminedCellsCannotChangeAnyResult : Prop :=
  ∀ (ps : List Pulse) (s t : State), s.length = t.length →
    (∀ i, unexamined i = false → bitAt s.buf i = bitAt t.buf i) → observe ps s = observe ps t

/-! ## Frames: what is left unchanged -/

/-- The frame of the rows that can store a cell, BIT0, BIT1 and PUSH_IMPULSE (10_state.md R21: "one cell per step,
always at index `length`"): every other cell is unchanged, and nothing is stored at `length` 59. The internal value
and the input, which are unchanged too, are the model's own fields (log entries 3, 4). -/
def Obligations.StoringOperationsLeaveOtherCells : Prop :=
  ∀ (i : Instr) (l : Level) (d : Nat) (s t : State),
    (i = .bit0 d ∨ i = .bit1 d ∨ i = .pushImpulse l d) → exec i s = .next t →
    (∀ j, j ≠ s.length.val → bitAt t.buf j = bitAt s.buf j) ∧
    (s.length = 59 → t.buf = s.buf) ∧ t.value = s.value ∧ t.input = s.input

/-- The frame of the rows that store nothing, RESETCMD, MARK and the five INV rows (10_state.md R21, 60_exceptions.md
R186): every cell is unchanged. The internal value and the input, which are unchanged too, are the model's own fields
(log entries 3, 4). -/
def Obligations.NonStoringOperationsLeaveEveryCell : Prop :=
  ∀ (i : Instr) (l : Level) (d : Nat) (s t : State),
    (i = .resetcmd l ∨ i = .mark d ∨ i = .invLs d ∨ i = .invLl d ∨ i = .invHs d ∨ i = .invHg d ∨ i = .invHl d) →
    exec i s = .next t → (∀ j, bitAt t.buf j = bitAt s.buf j) ∧ t.value = s.value ∧ t.input = s.input

/-- The frame of the pure functions CLASSIFY, VALIDATE, DECODE_BCD and DECODE (40_pulse_classifier.md R90,
42_frame_validator.md R120, 43_field_decoder.md R140: "reads nothing but ... and writes nothing"): all but the
returned value is unchanged. -/
def Obligations.PureFunctionsChangeNoState : Prop :=
  ∀ (i : Instr) (l : Level) (f : Frame) (d n : Nat) (s t : State),
    (i = .classify l d ∨ i = .validate f ∨ i = .decodeBcd f d n ∨ i = .decode f) → exec i s = .next t →
    (∀ j, bitAt t.buf j = bitAt s.buf j) ∧ t.length = s.length ∧ t.result = s.result ∧ t.status = s.status ∧
      t.check = s.check ∧ t.input = s.input

/-! ## The rest of the interface -/

/-- 60_exceptions.md R198: a step of one receiver is its own step and changes no other receiver. -/
def Obligations.ReceiversShareNothing : Prop :=
  ∀ (k : Nat) (rs : List State) (s : State), rs[k]? = some s →
    ∃ t, step s = .next t ∧ (stepReceiver k rs)[k]? = some t ∧
      ∀ j, j ≠ k → (stepReceiver k rs)[j]? = rs[j]?

/-- 60_exceptions.md R181: the numbers of the eight codes. -/
def Obligations.StatusCodesOfTheTable : Prop :=
  [Status.appended, .decoded, .resetCmd, .resync, .invalidPulse, .overflow, .structural, .parity].map
    (fun k => (statusCode k).toNat) = [0, 1, 2, 3, 4, 5, 6, 7]

/-- 70_reset_and_hazards.md R217, R218: clamping a duration to `2^DUR_W - 1` changes no step, from width 11 on;
and a short Invalid pulse rounded down to 0 differs in the status alone. -/
def Obligations.ClampingLosesNothingAndRoundingToZeroShowsInStatusOnly : Prop :=
  (∀ (w : Nat) (l : Level) (d : Nat) (s : State), 11 ≤ w →
    exec (.pushImpulse l (min d (2 ^ w - 1))) s = exec (.pushImpulse l d) s) ∧
  ∀ (l : Level) (d : Nat) (s : State), d ≠ 0 → classify l d = .invalid →
    ∃ t u, exec (.pushImpulse l d) s = .next t ∧ exec (.pushImpulse l 0) s = .next u ∧
      t.status = .invalidPulse ∧ u.status = .resetCmd ∧ u = { t with status := .resetCmd }

/-- 30_encoding.md R77: each pseudo-item of the pulse-stream notation expands to pulses of the class the table
names, `BITS` and `FRAME` bit by bit from left to right. -/
def Obligations.PseudoItemsExpandToTheirClasses : Prop :=
  (expandItem .b0).map decodePulse = [.bit0 100] ∧ (expandItem .b1).map decodePulse = [.bit1 200] ∧
  (expandItem .mark).map decodePulse = [.mark 1000] ∧ (expandItem .rst).map decodePulse = [.resetcmd .low] ∧
  (expandItem .bad).map decodePulse = [.invHg 135] ∧
  ∀ bs : List Bool,
    (expandItem (.bits bs)).map pulseBit = bs.map some ∧
    expandItem (.frame bs) = expandItem (.bits bs) ++ expandItem .mark
end

