-- ==== Sys2Proof/Laws/PerInstr.lean ====
section
/-! SUPPORT. Statements made once per constructor of Instr. -/

namespace Sys2Proof.Laws.EncodedWordFits

/-- The word of a well-formed instruction has at most the `w + 1` bits of a pulse word
(spec/30_encoding.md R62). -/
def Statement (i : Instr) : Prop :=
  ∀ w word, 11 ≤ w → i.wellFormed w = true → encode w i = some word → word < 2 ^ (w + 1)

theorem packPulse_lt {w : Nat} {l : Level} {d : Nat} (hd : d < 2 ^ w) : packPulse w ⟨l, d⟩ < 2 ^ (w + 1) := by
  have h2 : 2 ^ (w + 1) = 2 * 2 ^ w := by omega
  cases l <;> simp [packPulse, Level.toBit] <;> omega

theorem pow_ge {w : Nat} (hw : 11 ≤ w) : 2048 ≤ 2 ^ w := by
  have h : 2 ^ 11 ≤ 2 ^ w := Nat.pow_le_pow_right (by omega) hw
  omega

/-- The case of a row whose durations lie in a window. -/
theorem of_window {w word lo hi d : Nat} {l : Level} (hw : 11 ≤ w) (hhi : hi ≤ 2047 ∨ hi = 2 ^ w - 1)
    (hd : within lo hi d = true) (he : some (packPulse w ⟨l, d⟩) = some word) : word < 2 ^ (w + 1) := by
  have := pow_ge hw
  simp only [within, Bool.and_eq_true, decide_eq_true_eq] at hd
  cases he
  exact packPulse_lt (by omega)

theorem resetcmd (l : Level) : Statement (.resetcmd l) := fun w _ _ _ he => by
  cases he; exact packPulse_lt (Nat.two_pow_pos w)
theorem invLs (d : Nat) : Statement (.invLs d) := fun _ _ hw hd he => of_window hw (.inl (by omega)) hd he
theorem mark (d : Nat) : Statement (.mark d) := fun _ _ hw hd he => of_window hw (.inl (by omega)) hd he
theorem invLl (d : Nat) : Statement (.invLl d) := fun _ _ hw hd he => of_window hw (.inr rfl) hd he
theorem invHs (d : Nat) : Statement (.invHs d) := fun _ _ hw hd he => of_window hw (.inl (by omega)) hd he
theorem bit0 (d : Nat) : Statement (.bit0 d) := fun _ _ hw hd he => of_window hw (.inl (by omega)) hd he
theorem invHg (d : Nat) : Statement (.invHg d) := fun _ _ hw hd he => of_window hw (.inl (by omega)) hd he
theorem bit1 (d : Nat) : Statement (.bit1 d) := fun _ _ hw hd he => of_window hw (.inl (by omega)) hd he
theorem invHl (d : Nat) : Statement (.invHl d) := fun _ _ hw hd he => of_window hw (.inr rfl) hd he
theorem pushImpulse (l : Level) (d : Nat) : Statement (.pushImpulse l d) := fun _ _ _ _ he => nomatch he
theorem classify (l : Level) (d : Nat) : Statement (.classify l d) := fun _ _ _ _ he => nomatch he
theorem push (sym : Symbol) : Statement (.push sym) := fun _ _ _ _ he => nomatch he
theorem validate (f : Frame) : Statement (.validate f) := fun _ _ _ _ he => nomatch he
theorem decodeBcd (f : Frame) (start count : Nat) : Statement (.decodeBcd f start count) :=
  fun _ _ _ _ he => nomatch he
theorem decode (f : Frame) : Statement (.decode f) := fun _ _ _ _ he => nomatch he

end Sys2Proof.Laws.EncodedWordFits
end

