-- ==== Sys2Proof/Laws/Decode.lean ====
section
/-! SUPPORT. Lemmas about the two encodings: packing and unpacking a pulse word, and the bits of a frame made from
a list. -/

namespace Sys2Proof

/-- Unpacking a packed pulse gives it back when its duration fits. -/
theorem unpackPulse_packPulse {w : Nat} {p : Pulse} (hd : p.durationMs < 2 ^ w) :
    unpackPulse w (packPulse w p) = some p := by
  have h2 : 2 ^ (w + 1) = 2 * 2 ^ w := by omega
  obtain ⟨l, d⟩ := p
  simp only at hd
  have hlt : packPulse w ⟨l, d⟩ < 2 ^ (w + 1) := Laws.EncodedWordFits.packPulse_lt hd
  cases l with
  | low =>
    have h : ¬ 2 ^ w ≤ d := by omega
    simp [unpackPulse, packPulse, Level.toBit, Level.ofBit, h, Nat.mod_eq_of_lt hd]
    omega
  | high =>
    have h : 2 ^ w + d < 2 ^ (w + 1) := by omega
    simp [unpackPulse, packPulse, Level.toBit, Level.ofBit, h, Nat.mod_eq_of_lt hd]

/-- Packing what was unpacked gives the word back, and the duration fits. -/
theorem packPulse_of_unpackPulse {w word : Nat} {p : Pulse} (h : unpackPulse w word = some p) :
    packPulse w p = word ∧ p.durationMs < 2 ^ w := by
  have hpos := Nat.two_pow_pos w
  unfold unpackPulse at h
  split at h
  · next hlt =>
    have h2 : 2 ^ (w + 1) = 2 * 2 ^ w := by omega
    cases h
    refine ⟨?_, Nat.mod_lt _ hpos⟩
    by_cases hw : 2 ^ w ≤ word
    · have hm : word % 2 ^ w = word - 2 ^ w := by
        rw [Nat.mod_eq_sub_mod hw, Nat.mod_eq_of_lt (by omega)]
      simp only [packPulse, hw, decide_true, Level.ofBit, Level.toBit, Bool.toNat_true, hm]
      omega
    · simp [packPulse, hw, Level.ofBit, Level.toBit, Nat.mod_eq_of_lt (Nat.lt_of_not_le hw)]
  · cases h

theorem testBit_bitsToNat (bits : List Bool) (i : Nat) : (bitsToNat bits).testBit i = bits.getD i false := by
  induction bits generalizing i with
  | nil => simp [bitsToNat]
  | cons b bs ih =>
    cases i with
    | zero => cases b <;> simp [bitsToNat, Nat.testBit_zero]
    | succ i =>
      have h : (b.toNat + 2 * bitsToNat bs) / 2 = bitsToNat bs := by cases b <;> simp; omega
      simp [bitsToNat, Nat.testBit_succ, h, ih]

/-- Cell `i` of a frame made from a list is the list's `i`-th entry. -/
theorem getLsbD_frameOfBits (bits : List Bool) {i : Nat} (hi : i < 59) :
    (frameOfBits bits).getLsbD i = bits.getD i false := by
  rw [frameOfBits, BitVec.getLsbD_ofNat, testBit_bitsToNat, decide_eq_true hi, Bool.true_and]

end Sys2Proof
end

