-- ==== Sys2Proof/Laws/State.lean ====
section
/-! SUPPORT. One lemma per field per write of one field, true by definition. -/

namespace Sys2Proof.Machine

@[simp] theorem State.setBuf_buf (s : State) (v : Frame) : (s.setBuf v).buf = v := rfl
@[simp] theorem State.setBuf_length (s : State) (v : Frame) : (s.setBuf v).length = s.length := rfl
@[simp] theorem State.setBuf_result (s : State) (v : Frame) : (s.setBuf v).result = s.result := rfl
@[simp] theorem State.setBuf_status (s : State) (v : Frame) : (s.setBuf v).status = s.status := rfl
@[simp] theorem State.setBuf_check (s : State) (v : Frame) : (s.setBuf v).check = s.check := rfl
@[simp] theorem State.setBuf_value (s : State) (v : Frame) : (s.setBuf v).value = s.value := rfl
@[simp] theorem State.setBuf_input (s : State) (v : Frame) : (s.setBuf v).input = s.input := rfl

@[simp] theorem State.setLength_buf (s : State) (v : Fin 60) : (s.setLength v).buf = s.buf := rfl
@[simp] theorem State.setLength_length (s : State) (v : Fin 60) : (s.setLength v).length = v := rfl
@[simp] theorem State.setLength_result (s : State) (v : Fin 60) : (s.setLength v).result = s.result := rfl
@[simp] theorem State.setLength_status (s : State) (v : Fin 60) : (s.setLength v).status = s.status := rfl
@[simp] theorem State.setLength_check (s : State) (v : Fin 60) : (s.setLength v).check = s.check := rfl
@[simp] theorem State.setLength_value (s : State) (v : Fin 60) : (s.setLength v).value = s.value := rfl
@[simp] theorem State.setLength_input (s : State) (v : Fin 60) : (s.setLength v).input = s.input := rfl

@[simp] theorem State.setResult_buf (s : State) (v : Option DecodedTime) : (s.setResult v).buf = s.buf := rfl
@[simp] theorem State.setResult_length (s : State) (v : Option DecodedTime) : (s.setResult v).length = s.length := rfl
@[simp] theorem State.setResult_result (s : State) (v : Option DecodedTime) : (s.setResult v).result = v := rfl
@[simp] theorem State.setResult_status (s : State) (v : Option DecodedTime) : (s.setResult v).status = s.status := rfl
@[simp] theorem State.setResult_check (s : State) (v : Option DecodedTime) : (s.setResult v).check = s.check := rfl
@[simp] theorem State.setResult_value (s : State) (v : Option DecodedTime) : (s.setResult v).value = s.value := rfl
@[simp] theorem State.setResult_input (s : State) (v : Option DecodedTime) : (s.setResult v).input = s.input := rfl

@[simp] theorem State.setStatus_buf (s : State) (v : Status) : (s.setStatus v).buf = s.buf := rfl
@[simp] theorem State.setStatus_length (s : State) (v : Status) : (s.setStatus v).length = s.length := rfl
@[simp] theorem State.setStatus_result (s : State) (v : Status) : (s.setStatus v).result = s.result := rfl
@[simp] theorem State.setStatus_status (s : State) (v : Status) : (s.setStatus v).status = v := rfl
@[simp] theorem State.setStatus_check (s : State) (v : Status) : (s.setStatus v).check = s.check := rfl
@[simp] theorem State.setStatus_value (s : State) (v : Status) : (s.setStatus v).value = s.value := rfl
@[simp] theorem State.setStatus_input (s : State) (v : Status) : (s.setStatus v).input = s.input := rfl

@[simp] theorem State.setCheck_buf (s : State) (v : Fin 7) : (s.setCheck v).buf = s.buf := rfl
@[simp] theorem State.setCheck_length (s : State) (v : Fin 7) : (s.setCheck v).length = s.length := rfl
@[simp] theorem State.setCheck_result (s : State) (v : Fin 7) : (s.setCheck v).result = s.result := rfl
@[simp] theorem State.setCheck_status (s : State) (v : Fin 7) : (s.setCheck v).status = s.status := rfl
@[simp] theorem State.setCheck_check (s : State) (v : Fin 7) : (s.setCheck v).check = v := rfl
@[simp] theorem State.setCheck_value (s : State) (v : Fin 7) : (s.setCheck v).value = s.value := rfl
@[simp] theorem State.setCheck_input (s : State) (v : Fin 7) : (s.setCheck v).input = s.input := rfl

@[simp] theorem State.setValue_buf (s : State) (v : Option Value) : (s.setValue v).buf = s.buf := rfl
@[simp] theorem State.setValue_length (s : State) (v : Option Value) : (s.setValue v).length = s.length := rfl
@[simp] theorem State.setValue_result (s : State) (v : Option Value) : (s.setValue v).result = s.result := rfl
@[simp] theorem State.setValue_status (s : State) (v : Option Value) : (s.setValue v).status = s.status := rfl
@[simp] theorem State.setValue_check (s : State) (v : Option Value) : (s.setValue v).check = s.check := rfl
@[simp] theorem State.setValue_value (s : State) (v : Option Value) : (s.setValue v).value = v := rfl
@[simp] theorem State.setValue_input (s : State) (v : Option Value) : (s.setValue v).input = s.input := rfl

@[simp] theorem State.setInput_buf (s : State) (v : List PortSample) : (s.setInput v).buf = s.buf := rfl
@[simp] theorem State.setInput_length (s : State) (v : List PortSample) : (s.setInput v).length = s.length := rfl
@[simp] theorem State.setInput_result (s : State) (v : List PortSample) : (s.setInput v).result = s.result := rfl
@[simp] theorem State.setInput_status (s : State) (v : List PortSample) : (s.setInput v).status = s.status := rfl
@[simp] theorem State.setInput_check (s : State) (v : List PortSample) : (s.setInput v).check = s.check := rfl
@[simp] theorem State.setInput_value (s : State) (v : List PortSample) : (s.setInput v).value = s.value := rfl
@[simp] theorem State.setInput_input (s : State) (v : List PortSample) : (s.setInput v).input = v := rfl

end Sys2Proof.Machine
end

