-- ==== Sys2Proof/Laws/Ops.lean ====
section
/-! SUPPORT. One lemma per shared operation: what each writes, and the cases of PUSH, PUSH_IMPULSE and step. -/

namespace Sys2Proof.Machine

/-! Cells. -/

theorem bitAt_setBit (f : Frame) (i j : Nat) (b : Bool) (hi : i < 59) :
    bitAt (setBit f i b) j = if j = i then b else bitAt f j := by
  unfold bitAt setBit
  by_cases hj : j < 59
  · by_cases hji : j = i
    · subst hji
      cases b <;> simp [hj]
    · have : j < i ∨ ¬ (j - i = 0) := by omega
      cases b <;> simp [hj, hji] <;> omega
  · have hne : j ≠ i := by omega
    have hf : f.getLsbD j = false := BitVec.getLsbD_of_ge f j (by omega)
    cases b <;> simp [hj, hne, hf]

theorem bitAt_ge (f : Frame) (i : Nat) (hi : 59 ≤ i) : bitAt f i = false :=
  BitVec.getLsbD_of_ge f i hi

theorem frame_eq_of_bitAt {f g : Frame} (h : ∀ i, i < 59 → bitAt f i = bitAt g i) : f = g :=
  BitVec.eq_of_getLsbD_eq h

theorem bitAt_flipBit (f : Frame) (i j : Nat) (hi : i < 59) :
    bitAt (flipBit f i) j = if j = i then !bitAt f j else bitAt f j := by
  unfold flipBit
  rw [bitAt_setBit f i j _ hi]
  split
  · next h => rw [h]
  · rfl

theorem xorBits_congr {f g : Frame} {a n : Nat} (h : ∀ i, a ≤ i → i < a + n → bitAt f i = bitAt g i) :
    xorBits f a n = xorBits g a n := by
  induction n with
  | zero => rfl
  | succ n ih =>
    have hn : bitAt f (a + n) = bitAt g (a + n) := h _ (by omega) (by omega)
    simp only [xorBits, ih fun i h1 h2 => h i h1 (by omega), hn]

theorem bcd_congr {f g : Frame} {a n : Nat} (h : ∀ i, a ≤ i → i < a + n → bitAt f i = bitAt g i) :
    bcd f a n = bcd g a n := by
  induction n with
  | zero => rfl
  | succ n ih =>
    have hn : bitAt f (a + n) = bitAt g (a + n) := h _ (by omega) (by omega)
    simp only [bcd, ih fun i h1 h2 => h i h1 (by omega), hn]

/-! What each operation that ends a step writes. -/

@[simp] theorem raise_buf (k : Status) (c : Fin 7) (s : State) : (raise k c s).buf = s.buf := rfl
@[simp] theorem raise_length (k : Status) (c : Fin 7) (s : State) : (raise k c s).length = 0 := rfl
@[simp] theorem raise_result (k : Status) (c : Fin 7) (s : State) : (raise k c s).result = none := rfl
@[simp] theorem raise_status (k : Status) (c : Fin 7) (s : State) : (raise k c s).status = k := rfl
@[simp] theorem raise_check (k : Status) (c : Fin 7) (s : State) : (raise k c s).check = c := rfl
@[simp] theorem raise_value (k : Status) (c : Fin 7) (s : State) : (raise k c s).value = s.value := rfl
@[simp] theorem raise_input (k : Status) (c : Fin 7) (s : State) : (raise k c s).input = s.input := rfl

@[simp] theorem appendBit_buf (b : Bool) (s : State) (h) : (appendBit b s h).buf = setBit s.buf s.length.val b := rfl
@[simp] theorem appendBit_length (b : Bool) (s : State) (h) : (appendBit b s h).length.val = s.length.val + 1 := rfl
@[simp] theorem appendBit_result (b : Bool) (s : State) (h) : (appendBit b s h).result = none := rfl
@[simp] theorem appendBit_status (b : Bool) (s : State) (h) : (appendBit b s h).status = .appended := rfl
@[simp] theorem appendBit_check (b : Bool) (s : State) (h) : (appendBit b s h).check = 0 := rfl
@[simp] theorem appendBit_value (b : Bool) (s : State) (h) : (appendBit b s h).value = s.value := rfl
@[simp] theorem appendBit_input (b : Bool) (s : State) (h) : (appendBit b s h).input = s.input := rfl

@[simp] theorem deliver_buf (t : DecodedTime) (s : State) : (deliver t s).buf = s.buf := rfl
@[simp] theorem deliver_length (t : DecodedTime) (s : State) : (deliver t s).length = s.length := rfl
@[simp] theorem deliver_result (t : DecodedTime) (s : State) : (deliver t s).result = some t := rfl
@[simp] theorem deliver_status (t : DecodedTime) (s : State) : (deliver t s).status = .decoded := rfl
@[simp] theorem deliver_check (t : DecodedTime) (s : State) : (deliver t s).check = 0 := rfl
@[simp] theorem deliver_value (t : DecodedTime) (s : State) : (deliver t s).value = s.value := rfl
@[simp] theorem deliver_input (t : DecodedTime) (s : State) : (deliver t s).input = s.input := rfl

/-! The classifier at the spec's numbers. -/

theorem classify_low (d : Nat) :
    classify .low d = if 600 ≤ d ∧ d ≤ 1400 then .minuteMark else .invalid := rfl

theorem classify_high (d : Nat) :
    classify .high d =
      if 40 ≤ d ∧ d ≤ 130 then .bit false else if 140 ≤ d ∧ d ≤ 250 then .bit true else .invalid := rfl

/-! Cases. -/

/-- A frame passes exactly when no check is reported as failing. -/
theorem firstFailingCheck_eq_zero (f : Frame) : firstFailingCheck f = 0 ↔ validate f = true := by
  unfold firstFailingCheck validate
  cases check1 f <;> cases check2 f <;> cases check3 f <;> cases check4 f <;> cases check5 f <;>
    cases check6 f <;> decide

/-- The kind reported for a frame that fails is one of the two, by the number of the check. -/
theorem failureKind_cases (c : Fin 7) :
    (failureKind c = .structural ∧ c.val ≤ 3) ∨ (failureKind c = .parity ∧ 4 ≤ c.val) := by
  revert c; decide

theorem pushBit_append (b : Bool) (s : State) (h : s.length.val < 59) : pushBit b s = appendBit b s h := dif_pos h

theorem pushBit_overflow (b : Bool) (s : State) (h : ¬ s.length.val < 59) : pushBit b s = raise .overflow 0 s :=
  dif_neg h

/-- Everything a step on a pulse can do, with the condition of each case (spec/44_decoder_top.md R166). -/
theorem pushImpulse_cases (l : Level) (d : Nat) (s : State) :
    (d = 0 ∧ pushImpulse l d s = raise .resetCmd 0 s) ∨
    (d ≠ 0 ∧ classify l d = .invalid ∧ pushImpulse l d s = raise .invalidPulse 0 s) ∨
    (d ≠ 0 ∧ ∃ b h, classify l d = .bit b ∧ pushImpulse l d s = appendBit b s h) ∨
    (d ≠ 0 ∧ ∃ b, classify l d = .bit b ∧ s.length = 59 ∧ pushImpulse l d s = raise .overflow 0 s) ∨
    (d ≠ 0 ∧ classify l d = .minuteMark ∧ s.length ≠ 59 ∧ pushImpulse l d s = raise .resync 0 s) ∨
    (d ≠ 0 ∧ classify l d = .minuteMark ∧ s.length = 59 ∧ validate s.buf = true ∧
      pushImpulse l d s = deliver (decode s.buf) (s.setLength 0)) ∨
    (d ≠ 0 ∧ classify l d = .minuteMark ∧ s.length = 59 ∧ validate s.buf = false ∧
      pushImpulse l d s = raise (failureKind (firstFailingCheck s.buf)) (firstFailingCheck s.buf) s) := by
  by_cases hd : d = 0
  · exact .inl ⟨hd, by simp [pushImpulse, hd]⟩
  refine .inr ?_
  unfold pushImpulse
  cases hc : classify l d with
  | invalid => exact .inl ⟨hd, rfl, by simp [hd, push]⟩
  | bit b =>
    by_cases hl : s.length.val < 59
    · exact .inr (.inl ⟨hd, b, hl, rfl, by simp [hd, push, pushBit_append b s hl]⟩)
    · have h59 : s.length = 59 := Fin.ext (by have := s.length.isLt; simp; omega)
      exact .inr (.inr (.inl ⟨hd, b, rfl, h59, by simp [hd, push, pushBit_overflow b s hl]⟩))
  | minuteMark =>
    by_cases hl : s.length = 59
    · cases hv : validate s.buf with
      | true =>
        exact .inr (.inr (.inr (.inr (.inl ⟨hd, rfl, hl, rfl, by simp [hd, push, hl, judgeFrame, hv]⟩))))
      | false =>
        refine .inr (.inr (.inr (.inr (.inr ⟨hd, rfl, hl, rfl, ?_⟩))))
        simp only [hd, push, hl, judgeFrame, hv, if_true, if_false]
        rfl
    · exact .inr (.inr (.inr (.inl ⟨hd, rfl, hl, by simp [hd, push, hl]⟩)))

/-- Everything one step of the machine can do (spec/44_decoder_top.md R173). -/
theorem step_cases (s : State) :
    (presented s = .nothing ∧ step s = .next (park (takeSample s))) ∨
    (presented s = .reset ∧ step s = .next (holdReset (takeSample s))) ∨
    (∃ p, presented s = .pulse p ∧ step s = exec (decodePulse p) (takeSample s)) := by
  unfold step
  cases h : presented s with
  | nothing => exact .inl ⟨rfl, rfl⟩
  | reset => exact .inr (.inl ⟨rfl, rfl⟩)
  | pulse p => exact .inr (.inr ⟨p, rfl, rfl⟩)

end Sys2Proof.Machine
end

