-- ==== Sys2Proof/Laws/Runs.lean ====
section
/-! SUPPORT. Lemmas about runs of pulses: appending lists, and that a step on a pulse neither reads nor writes the
input and the internal value. -/

namespace Sys2Proof.Safety

open Sys2Proof.Machine

@[simp] theorem feed_nil (s : State) : feed [] s = s := rfl

@[simp] theorem feed_cons (p : Pulse) (ps : List Pulse) (s : State) :
    feed (p :: ps) s = feed ps (pushImpulse p.level p.durationMs s) := rfl

theorem feed_append (ps qs : List Pulse) (s : State) : feed (ps ++ qs) s = feed qs (feed ps s) := by
  simp [feed, List.foldl_append]

theorem feed_snoc (ps : List Pulse) (p : Pulse) (s : State) :
    feed (ps ++ [p]) s = pushImpulse p.level p.durationMs (feed ps s) := by
  rw [feed_append]; rfl

/-- The step on a pulse passes the input through. -/
theorem pushImpulse_setInput (l : Level) (d : Nat) (s : State) (qs : List PortSample) :
    pushImpulse l d (s.setInput qs) = (pushImpulse l d s).setInput qs := by
  unfold pushImpulse
  split
  · rfl
  · cases classify l d with
    | invalid => rfl
    | bit b =>
      by_cases h : s.length.val < 59
      · simp only [push, pushBit_append b s h, pushBit_append b (s.setInput qs) h]; rfl
      · simp only [push, pushBit_overflow b s h, pushBit_overflow b (s.setInput qs) h]; rfl
    | minuteMark =>
      by_cases h : s.length = 59
      · simp only [push, State.setInput_length, h, if_true, State.setInput_buf, judgeFrame]
        split <;> rfl
      · simp only [push, State.setInput_length, h, if_false]; rfl

theorem feed_setInput (ps : List Pulse) (s : State) (qs : List PortSample) :
    feed ps (s.setInput qs) = (feed ps s).setInput qs := by
  induction ps generalizing s with
  | nil => rfl
  | cons p ps ih => simp only [feed_cons, pushImpulse_setInput, ih]

/-- The XOR of a group is 1 exactly when the number of its 1-bits is odd (spec/00_scope.md R9). -/
theorem xorBits_eq_onesIn (f : Frame) (a n : Nat) :
    xorBits f a n = decide (onesIn f a (a + n) % 2 = 1) := by
  induction n with
  | zero => simp [xorBits, onesIn]
  | succ n ih =>
    have hone : onesIn f a (a + (n + 1)) = onesIn f a (a + n) + (bitAt f (a + n)).toNat := by
      have h1 : a + (n + 1) - a = n + 1 := by omega
      have h2 : a + n - a = n := by omega
      unfold onesIn
      rw [h1, h2, List.range'_concat, List.filter_append, List.length_append]
      cases hb : bitAt f (a + n) <;> simp [hb]
    rw [xorBits, ih, hone]
    cases bitAt f (a + n) with
    | false => simp
    | true => by_cases h : onesIn f a (a + n) % 2 = 1 <;> simp [h] <;> omega

end Sys2Proof.Safety
end

