-- ==== Sys2Proof/Tests/Slice0.lean ====
section
/-! SUPPORT. The model's own tests. Expected results are the vectors of spec/95_test_vectors.md (V-C, V-A, V-BCD,
frames A to E, V-F, V-FF, V-T), the row counts of 30_encoding.md R64, and hand calculation from the rules. After
them, a witness for the hypotheses of each statement of Certificates/Slice0/Obligations.lean that has any. -/

namespace Sys2Proof.Tests

open Sys2Proof.Machine Sys2Proof.Safety

/-- The answer is a next state with the property `p`. -/
def answers (o : Host.Outcome State Fault Refusal) (p : State → Bool) : Bool :=
  match o with
  | .next t => p t
  | .fault _ => false
  | .refused _ => false

/-- `length = n`, the cells `f`, everything else as after reset. -/
def at' (n : Fin 60) (f : Frame) : State := (State.reset.setLength n).setBuf f

/-- `s` with one pulse presented. -/
def given (s : State) (p : Pulse) : State := s.setInput [samplePulse p]

/-- One step of `s` on a pulse leaves `n`, returns `r`, reports `k` and `c`. -/
def stepGives (s : State) (p : Pulse) (n : Fin 60) (r : Option DecodedTime) (k : Status) (c : Fin 7) : Bool :=
  answers (step (given s p)) fun t =>
    decide (t.length = n ∧ t.result = r ∧ t.status = k ∧ t.check = c ∧ t.input = [])

/-! ## Frames A to E (95_test_vectors.md 2.4) -/

def frameA : Frame := 0x48CD15246140000#59
def frameB : Frame := 0x2665F1C6B320000#59
def frameC : Frame := 0x400241000140000#59
def frameD : Frame := 0x3FFFFF7FFFBFFFE#59
def frameE : Frame := 0x1020C9910FBFFFE#59
def timeA : DecodedTime := ⟨0, 30, 12, 15, 6, 23, 4, false⟩

theorem test_frameA_spelled : frameOfBits ("00000000000000000010100001100010010010101000101100110001001".toList.map (· == '1')) = frameA := by decide
theorem test_frameA : validate frameA = true ∧ decode frameA = timeA := by decide
theorem test_frameB : validate frameB = true ∧ decode frameB = ⟨0, 59, 23, 31, 12, 99, 7, true⟩ := by decide
theorem test_frameC : validate frameC = true ∧ decode frameC = ⟨0, 0, 0, 1, 1, 0, 1, false⟩ := by decide
theorem test_frameD : validate frameD = true ∧ decode frameD = ⟨0, 85, 45, 45, 25, 165, 7, true⟩ := by decide
theorem test_frameE : validate frameE = true ∧ decode frameE = ⟨0, 7, 8, 9, 10, 40, 3, true⟩ := by decide
theorem test_encodeFrame_A : CalendarFields.bits ⟨0, false, false, 30, 12, 15, 4, 6, 23⟩ =
    "00000000000000000010100001100010010010101000101100110001001".toList.map (· == '1') := by decide
theorem test_encodeFrame_E : CalendarFields.bits ⟨0xFFFF, true, true, 7, 8, 9, 3, 10, 40⟩ =
    "01111111111111111101111100001000100110010011000001000000100".toList.map (· == '1') := by decide

/-- V-F0, V-F17, V-F18, V-F20 and one flip in each parity group, with V-Fx. -/
theorem test_flips_of_A : [0, 17, 18, 20, 21, 28, 29, 35, 36, 58, 1, 16, 19].map (fun i => firstFailingCheck (flipBit frameA i)) =
    [1, 3, 3, 2, 4, 4, 5, 5, 6, 6, 0, 0, 0] := by decide
/-- V-FF1. -/
theorem test_two_flips_pass : validate (flipBit (flipBit frameA 21) 22) = true ∧ (decode (flipBit (flipBit frameA 21) 22)).minute = 33 := by decide
/-- V-FF3, V-FF4. -/
theorem test_first_failure : firstFailingCheck (flipBit (flipBit frameA 20) 30) = 2 ∧
    firstFailingCheck (flipBit (flipBit frameA 28) 35) = 4 := by decide

/-! ## Decoding (95_test_vectors.md 2.1), each word written out -/

theorem test_decode_resetcmd : decodeWord 16 0b0_0000000000000000 = .instr (.resetcmd .low) ∧ decodeWord 16 0b1_0000000000000000 = .instr (.resetcmd .high) := by decide
theorem test_decode_invLs : decodeWord 16 0b0_0000000000000001 = .instr (.invLs 1) ∧ decodeWord 16 0b0_0000001001010111 = .instr (.invLs 599) := by decide
theorem test_decode_mark : decodeWord 16 0b0_0000001001011000 = .instr (.mark 600) ∧ decodeWord 16 0b0_0000010101111000 = .instr (.mark 1400) := by decide
theorem test_decode_invLl : decodeWord 16 0b0_0000010101111001 = .instr (.invLl 1401) ∧ decodeWord 16 0b0_1111111111111111 = .instr (.invLl 65535) := by decide
theorem test_decode_invHs : decodeWord 16 0b1_0000000000000001 = .instr (.invHs 1) ∧ decodeWord 16 0b1_0000000000100111 = .instr (.invHs 39) := by decide
theorem test_decode_bit0 : decodeWord 16 0b1_0000000000101000 = .instr (.bit0 40) ∧ decodeWord 16 0b1_0000000010000010 = .instr (.bit0 130) := by decide
theorem test_decode_invHg : decodeWord 16 0b1_0000000010000011 = .instr (.invHg 131) ∧ decodeWord 16 0b1_0000000010001011 = .instr (.invHg 139) := by decide
theorem test_decode_bit1 : decodeWord 16 0b1_0000000010001100 = .instr (.bit1 140) ∧ decodeWord 16 0b1_0000000011111010 = .instr (.bit1 250) := by decide
theorem test_decode_invHl : decodeWord 16 0b1_0000000011111011 = .instr (.invHl 251) ∧ decodeWord 16 0b1_1111111111111111 = .instr (.invHl 65535) := by decide
theorem test_decode_too_wide : decodeWord 16 0x20000 = .rejected (.notAPulseWord 0x20000) := by decide
/-- At `DUR_W` = 11 the level is bit 11 (R62). -/
theorem test_decode_narrow : decodeWord 11 0x864 = .instr (.bit0 100) ∧ encode 11 (.bit0 100) = some 0x864 := by decide
theorem test_encode_words : (encode 16 (.bit0 100), encode 16 (.bit1 200), encode 16 (.mark 1000), encode 16 (.invHg 135)) =
    (some 0x10064, some 0x100C8, some 0x003E8, some 0x10087) := by decide
/-- The row counts of R64 at `DUR_W` = 16; RESETCMD's row leaves the level open and so holds 2 words. -/
theorem test_row_counts : opcodeTable.map (fun r => (r.durationMax - r.durationMin + 1) * (if r.mask = 0x0FFFF then 2 else 1)) =
    [2, 599, 801, 64135, 39, 91, 9, 111, 65285] := by decide
theorem test_tableWord : decodeTableWord 24 0x100C8 = some (.bit1 200) ∧ decodeTableWord 16 0 = some (.resetcmd .low) := by decide

/-! ## Well-formedness: an ill-formed term for each check, refused, beside one that passes -/

theorem test_wf_invLs : (Instr.invLs 0).wellFormed 16 = false ∧ (Instr.invLs 600).wellFormed 16 = false ∧ (Instr.invLs 599).wellFormed 16 = true := by decide
theorem test_wf_mark : (Instr.mark 599).wellFormed 16 = false ∧ (Instr.mark 1401).wellFormed 16 = false ∧ (Instr.mark 600).wellFormed 16 = true := by decide
theorem test_wf_invLl : (Instr.invLl 1400).wellFormed 16 = false ∧ (Instr.invLl 65536).wellFormed 16 = false ∧ (Instr.invLl 65535).wellFormed 16 = true := by decide
theorem test_wf_invHs : (Instr.invHs 0).wellFormed 16 = false ∧ (Instr.invHs 40).wellFormed 16 = false ∧ (Instr.invHs 39).wellFormed 16 = true := by decide
theorem test_wf_bit0 : (Instr.bit0 39).wellFormed 16 = false ∧ (Instr.bit0 131).wellFormed 16 = false ∧ (Instr.bit0 130).wellFormed 16 = true := by decide
theorem test_wf_invHg : (Instr.invHg 130).wellFormed 16 = false ∧ (Instr.invHg 140).wellFormed 16 = false ∧ (Instr.invHg 131).wellFormed 16 = true := by decide
theorem test_wf_bit1 : (Instr.bit1 139).wellFormed 16 = false ∧ (Instr.bit1 251).wellFormed 16 = false ∧ (Instr.bit1 250).wellFormed 16 = true := by decide
theorem test_wf_invHl : (Instr.invHl 250).wellFormed 16 = false ∧ (Instr.invHl 65536).wellFormed 16 = false ∧ (Instr.invHl 251).wellFormed 16 = true := by decide
theorem test_wf_durations : (Instr.pushImpulse .low 65536).wellFormed 16 = false ∧ (Instr.classify .high 0).wellFormed 16 = false ∧ (Instr.classify .high 65536).wellFormed 16 = false := by decide
theorem test_wf_decodeBcd : (Instr.decodeBcd 0 0 0).wellFormed 16 = false ∧ (Instr.decodeBcd 0 0 9).wellFormed 16 = false ∧
    (Instr.decodeBcd 0 52 8).wellFormed 16 = false ∧ (Instr.decodeBcd 0 51 8).wellFormed 16 = true := by decide
theorem test_wf_calendar : CalendarFields.wellFormed ⟨0, false, false, 60, 0, 1, 1, 1, 0⟩ = false ∧
    CalendarFields.wellFormed ⟨0, false, false, 59, 23, 31, 7, 12, 99⟩ = true := by decide

/-! ## The components on their own -/

/-- V-C16, V-C19, V-C12, and duration 0 by R90's corner case. -/
theorem test_classify : classify .low 100 = .invalid ∧ classify .low 800 = .minuteMark ∧ classify .high 1000 = .invalid ∧ classify .low 0 = .invalid := by decide
theorem test_execClassify : answers (exec (.classify .high 100) State.reset) (fun t => decide (t = State.reset.setValue (some (.symbol (.bit false))))) = true := by decide
/-- V-A3. -/
theorem test_push_closes : answers (exec (.push (.bit false)) (at' 58 (-1#59))) (fun t => decide (t.length = 59 ∧ bitAt t.buf 58 = false ∧ bitAt t.buf 57 = true ∧ t.value = some (.frame none))) = true := by decide
/-- V-A8. -/
theorem test_push_emits : answers (exec (.push .minuteMark) (at' 59 frameA)) (fun t => decide (t.length = 0 ∧ t.value = some (.frame (some frameA)))) = true := by decide
theorem test_execValidate : answers (exec (.validate (flipBit frameA 28)) State.reset) (fun t => decide (t.value = some (.verdict false))) = true := by decide
/-- V-BCD2, V-BCD17, V-BCD18 on an 8- or 7-bit field at index 21. -/
theorem test_bcd : bcd (frameOfBits (List.replicate 21 false ++ [false, false, false, false, true, true, false])) 21 7 = 30 ∧
    bcd (-1#59) 50 8 = 165 ∧ bcd (frameOfBits [false, true, false, true, false, false, false]) 0 7 = 10 := by decide
theorem test_execDecodeBcd : answers (exec (.decodeBcd frameA 50 8) State.reset) (fun t => decide (t.value = some (.sum 23))) = true := by decide
theorem test_execDecode : answers (exec (.decode frameA) State.reset) (fun t => decide (t.value = some (.time timeA))) = true := by decide
theorem test_execPushImpulse : answers (exec (.pushImpulse .low 1000) (at' 59 frameA)) (fun t => decide (t.length = 0 ∧ t.result = some timeA)) = true := by decide
theorem test_symbolCodes : [Symbol.bit false, .bit true, .minuteMark, .invalid].map symbolCode = [0b00, 0b01, 0b10, 0b11] := by decide

/-! ## One step (95_test_vectors.md 2.5) -/

/-- V-T1, V-T2. -/
theorem test_T1 : stepGives (at' 42 frameA) ⟨.high, 0⟩ 0 none .resetCmd 0 = true := by decide
theorem test_T3 : stepGives (at' 59 frameA) ⟨.low, 0⟩ 0 none .resetCmd 0 = true := by decide
theorem test_T4 : stepGives (at' 0 (-1#59)) ⟨.high, 100⟩ 1 none .appended 0 = true ∧
    answers (step (given (at' 0 (-1#59)) ⟨.high, 100⟩)) (fun t => bitAt t.buf 0 == false && bitAt t.buf 1) = true := by decide
theorem test_T5 : stepGives (at' 20 0) ⟨.high, 200⟩ 21 none .appended 0 = true ∧
    answers (step (given (at' 20 0) ⟨.high, 200⟩)) (fun t => decide (t.buf = 0x100000#59)) = true := by decide
theorem test_T6 : stepGives (at' 30 frameA) ⟨.high, 135⟩ 0 none .invalidPulse 0 = true := by decide
theorem test_T7 : stepGives (at' 30 frameA) ⟨.low, 800⟩ 0 none .resync 0 = true := by decide
theorem test_T8 : stepGives (at' 30 frameA) ⟨.low, 1800⟩ 0 none .invalidPulse 0 = true := by decide
theorem test_T9 : stepGives (at' 59 frameA) ⟨.low, 1000⟩ 0 (some timeA) .decoded 0 = true := by decide
theorem test_T10 : stepGives (at' 59 frameA) ⟨.low, 1800⟩ 0 none .invalidPulse 0 = true := by decide
theorem test_T11 : stepGives (at' 59 frameA) ⟨.high, 100⟩ 0 none .overflow 0 = true := by decide
theorem test_T12 : stepGives (at' 59 (flipBit frameA 28)) ⟨.low, 1000⟩ 0 none .parity 4 = true := by decide
theorem test_structural : stepGives (at' 59 (flipBit frameA 0)) ⟨.low, 1000⟩ 0 none .structural 1 = true := by decide
/-- R173: `rst` wins over `in_valid`; with neither the block is parked. -/
theorem test_rst : answers (step ((at' 42 frameA).setInput [⟨true, true, .high, 100⟩])) (fun t => decide (t.length = 0 ∧ t.buf = frameA ∧ t.input = [])) = true := by decide
theorem test_parked : answers (step (at' 42 frameA)) (fun t => decide (t = at' 42 frameA)) = true := by decide
theorem test_withFetchWord : answers (step ((at' 20 0).withFetchWord 24 0x100C8)) (fun t => decide (t.length = 21 ∧ t.input = [])) = true := by decide

/-- The output signals after V-T9 and V-T12 (R173). -/
theorem test_outputs : answers (step (given (at' 59 frameA) ⟨.low, 1000⟩)) (fun t => outValid t && outStatus t == 1 && outCheck t == 0) = true ∧
    answers (step (given (at' 59 (flipBit frameA 28)) ⟨.low, 1000⟩)) (fun t => !outValid t && outStatus t == 7 && outCheck t == 4) = true := by decide
/-- 70_reset_and_hazards.md R225: the least and the greatest measured duration of a frame and its mark. -/
theorem test_measured_duration : 59 * Config.tBit0Min + Config.tMarkMin = 2960 ∧ 59 * Config.tBit1Max + Config.tMarkMax = 16150 := by decide

/-! ## The notation (30_encoding.md R76, R77): program P7's text -/

theorem test_P7 : (readStream "H100 L800 H100 L900 H200 L800".toList).map (fun is => (expandStream is).map (packPulse 16)) =
    some [0x10064, 0x00320, 0x10064, 0x00384, 0x100C8, 0x00320] := by decide
theorem test_items : readStream "BITS(01) BAD RST MARK B0 B1".toList = some [.bits [false, true], .bad, .rst, .mark, .b0, .b1] ∧
    readStream "FRAME(01)".toList = none := by decide

/-! ## Witnesses: the hypotheses of each statement that has any can be met, clause by clause -/

theorem witness_EncodedInstructionsDecodeToThemselves : 11 ≤ 11 ∧ (Instr.invHl 2047).wellFormed 11 = true ∧ encode 11 (.invHl 2047) = some 4095 := by decide
theorem witness_EveryPulseWordDecodesAndEncodesBack : 11 ≤ 11 ∧ 4095 < 2 ^ (11 + 1) := by decide
theorem witness_OpcodeTableRowsPartitionTheWords : 0x1FFFF < 2 ^ 17 := by decide
/-- One duration at an end of each clause's range. -/
theorem witness_OperationMapOfThePulseWord : 11 ≤ 11 ∧ [0, 599, 600, 1401, 39, 130, 131, 140, 251].all (· < 2 ^ 11) = true := by decide
theorem witness_NumbersBeyondThePulseWordAreRejected : 2 ^ (16 + 1) ≤ 0x20000 := by decide
theorem witness_DecodedRowHasTheClassifiersSymbol : (Pulse.mk .high 1).durationMs ≠ 0 := by decide
theorem witness_PushOnPrematureMarkResynchronises : (at' 58 frameA).length ≠ 59 := by decide
theorem witness_PushOnClosingMarkEmitsTheFrame : (at' 59 frameA).length = 59 ∧
    answers (exec (.push .minuteMark) (at' 59 frameA)) (fun t => decide (t.value = some (.frame (some frameA)))) = true := by decide
theorem witness_PushOnBitAppendsAtLength : (at' 58 frameA).length.val < 59 := by decide
theorem witness_PushOnBitOverflowsAtFiftyNine : (at' 59 frameA).length = 59 := by decide
theorem witness_PushLeavesTheRestUnchanged :
    exec (.push .minuteMark) (at' 59 frameA) = .next ((push .minuteMark (at' 59 frameA)).1.setValue (some (.frame (some frameA)))) ∧
    exec (.push (.bit true)) (at' 58 frameA) = .next ((pushBit true (at' 58 frameA)).setValue (some (.frame none))) :=
  ⟨rfl, rfl⟩
theorem witness_OneFlippedBitIsDetectedWhereExamined : validate frameA = true ∧ unexamined 58 = false ∧ unexamined 16 = true ∧ 58 < 59 := by decide
theorem witness_TwoFlippedBitsOfOneGroupPass : validate frameA = true ∧ sameGroup 21 28 = true ∧ sameGroup 29 35 = true ∧ sameGroup 36 58 = true := by decide
theorem witness_DecodeBcdReturnsTheWeightedSum : 1 ≤ 8 ∧ 8 ≤ 8 ∧ 51 + 8 ≤ 59 := by decide
theorem witness_DecodeBcdStopsOutsideItsDomain : (0 < 1 ∧ 8 < 9) ∧ (1 ≤ 8 ∧ 8 ≤ 8 ∧ 59 < 52 + 8) := by decide
theorem witness_LargestWeightedSums : 1 ≤ 8 ∧ ∀ i, i < 8 → bitAt (-1#59) (50 + i) = true := by decide
theorem witness_WeightedSumIsOnesPlusTenTimesTens : 1 ≤ 8 ∧ 8 ≤ 8 := by decide
/-- Minute 59, hour 23, day 31, month 12, year 99, weekday 7, as frame B carries them. -/
theorem witness_CalendarValuesSurviveTheWeightedLayout :
    (∀ i, i < 7 → bitAt frameB (21 + i) = (bcdDigits 7 59).getD i false) ∧ (∀ i, i < 6 → bitAt frameB (36 + i) = (bcdDigits 6 31).getD i false) ∧
    (∀ i, i < 5 → bitAt frameB (45 + i) = (bcdDigits 5 12).getD i false) ∧ (∀ i, i < 8 → bitAt frameB (50 + i) = (bcdDigits 8 99).getD i false) ∧
    (∀ i, i < 3 → bitAt frameB (42 + i) = (bcdDigits 3 7).getD i false) := by decide
theorem witness_DecodeReadsOnlyItsFields : ∀ i, i < 59 → readByDecode i = true → bitAt frameA i = bitAt (flipBit frameA 58) i := by decide
theorem witness_TransmittedCalendarTimesDecodeToThemselves : CalendarFields.wellFormed ⟨0, true, true, 59, 23, 31, 7, 12, 99⟩ = true := by decide
theorem witness_BitZeroIsStoredOrOverflows : 40 ≤ 40 ∧ 40 ≤ 130 ∧ (at' 58 frameA).length.val < 59 ∧ (at' 59 frameA).length = 59 := by decide
theorem witness_BitOneIsStoredOrOverflows : 140 ≤ 250 ∧ 250 ≤ 250 ∧ (at' 58 frameA).length.val < 59 ∧ (at' 59 frameA).length = 59 := by decide
theorem witness_MarkReturnsATimeExactlyForAClosedValidFrame : 600 ≤ 600 ∧ 600 ≤ 1400 ∧ (at' 58 frameA).length ≠ 59 ∧
    ((at' 59 frameA).length = 59 ∧ validate (at' 59 frameA).buf = true) ∧ validate (at' 59 (flipBit frameA 58)).buf = false := by decide
theorem witness_StructuralViolationIsReportedFirst : (at' 59 (flipBit frameA 17)).length = 59 ∧
    bitAt (at' 59 (flipBit frameA 17)).buf 17 = bitAt (at' 59 (flipBit frameA 17)).buf 18 := by decide
theorem witness_ParityViolationIsReportedByGroup : (at' 59 (flipBit frameA 58)).length = 59 ∧ bitAt (flipBit frameA 58) 0 = false ∧
    bitAt (flipBit frameA 58) 20 = true ∧ bitAt (flipBit frameA 58) 17 ≠ bitAt (flipBit frameA 58) 18 ∧ onesIn (flipBit frameA 58) 36 59 % 2 = 1 := by decide
theorem witness_InvalidPulsesDropTheFrame : [Instr.invLs 1, .invLl 1401, .invHs 39, .invHg 131, .invHl 251].all (fun i => answers (exec i (at' 59 frameA)) fun t => decide (t.length = 0)) = true := by decide
theorem witness_StepRunsTheDecodedPulse : (given State.reset ⟨.high, 130⟩).input = [⟨false, true, .high, 130⟩] ∧ decodePulse ⟨.high, 130⟩ = .bit0 130 := by decide
theorem witness_PresentedTableWordIsRunNext : decodeTableWord 24 0x103E8 = some (.invHl 1000) := by decide
theorem witness_ExternalResetIgnoresThePulse : (State.reset.setInput [⟨true, true, .high, 100⟩]).input = [⟨true, true, .high, 100⟩] := by decide
theorem witness_NoPulseParksTheBlock : State.reset.input = [] ∧ (State.reset.setInput [⟨false, false, .high, 100⟩]).input = [⟨false, false, .high, 100⟩] := by decide
theorem witness_StepKeepsTheOutputsConsistent : Consistent (at' 42 frameA) ∧ step (at' 42 frameA) = .next (at' 42 frameA) :=
  ⟨⟨by decide, by decide, by decide, by decide, by decide, (fun _ h => by cases h), by decide⟩, rfl⟩
theorem witness_StepsOverPulsesAreTheFoldOfPushImpulse : (given State.reset ⟨.high, 100⟩).input = [⟨.high, 100⟩].map samplePulse ++ [] := by decide
theorem witness_StaleCellsAreNeverObserved : SameLive (at' 58 frameA) (at' 58 (flipBit frameA 58)) := ⟨rfl, by decide⟩
theorem witness_BufferHoldsTheBitsSinceTheLastReset : State.reset.length = 0 ∧ (feed [⟨.high, 135⟩, ⟨.high, 200⟩] State.reset).length = 1 := by decide
theorem witness_ATimeAppearsExactlyAfterAValidFrame : (at' 0 frameA).length = 0 ∧ isMarkPulse ⟨.low, 1400⟩ = true := by decide
theorem witness_NoTimeWithinFiftyNineSteps : ([⟨.low, 1000⟩] : List Pulse) ≠ [] ∧ (List.replicate 59 (Pulse.mk .high 100)).length ≤ 59 ∧ State.reset.length = 0 ∧
    (deliver timeA State.reset).result.isSome = true ∧ (deliver timeA State.reset).length = 0 := by decide
theorem witness_consistent_after_a_time : Consistent (deliver timeA State.reset) :=
  ⟨by decide, by decide, by decide, by decide, by decide, (fun t h => by cases h; decide), by decide⟩
theorem witness_AClosedFrameSurvivesOneStep : controlOf (at' 59 frameA) = .frameClosed := by decide
theorem witness_ShiftRegisterGivesTheSameFrame : (List.replicate 59 true).length = 59 ∧ State.reset.length = 0 := by decide
theorem witness_UnexaminedCellsCannotChangeAnyResult : ∀ i, i < 59 → unexamined i = false → bitAt frameA i = bitAt (flipBit frameA 19) i := by decide
theorem witness_StoringOperationsLeaveOtherCells : exec (.bit1 140) (at' 58 frameA) = .next (pushBit true (at' 58 frameA)) ∧
    exec (.bit0 40) (at' 59 frameA) = .next (raise .overflow 0 (at' 59 frameA)) := ⟨rfl, rfl⟩
theorem witness_NonStoringOperationsLeaveEveryCell : exec (.mark 600) (at' 58 frameA) = .next (raise .resync 0 (at' 58 frameA)) := rfl
theorem witness_PureFunctionsChangeNoState : exec (.decodeBcd frameA 51 8) (at' 58 frameA) = .next ((at' 58 frameA).setValue (some (.sum (bcd frameA 51 8)))) := rfl
theorem witness_ReceiversShareNothing : [State.reset, at' 58 frameA][1]? = some (at' 58 frameA) := by decide
theorem witness_ClampingLosesNothingAndRoundingToZeroShowsInStatusOnly : 11 ≤ 11 ∧ 39 ≠ 0 ∧ classify .high 39 = .invalid := by decide

end Sys2Proof.Tests
end

/-! PROOFS. The state of spec/10_state.md: what a step does to `length` and to the cells, and what a run keeps. -/

namespace Sys2Proof.Machine

/-! ## PUSH_IMPULSE by the kind of the pulse (spec/44_decoder_top.md R160) -/

/-- Duration 0 lies in no window of either level (40_pulse_classifier.md R90). -/
theorem classify_zero (l : Level) : classify l 0 = .invalid := by cases l <;> rfl

/-- A pulse that the classifier gives another symbol than Invalid is no reset command. -/
theorem ne_zero_of_classify_ne_invalid {l : Level} {d : Nat} (h : classify l d ≠ .invalid) : d ≠ 0 := by
  rintro rfl
  exact h (classify_zero l)

theorem pushImpulse_zero (l : Level) (s : State) : pushImpulse l 0 s = raise .resetCmd 0 s := rfl

theorem pushImpulse_of_invalid {l : Level} {d : Nat} (hd : d ≠ 0) (hc : classify l d = .invalid) (s : State) :
    pushImpulse l d s = raise .invalidPulse 0 s := by
  simp [pushImpulse, hd, hc, push]

theorem pushImpulse_of_bit {l : Level} {d : Nat} {b : Bool} (hc : classify l d = .bit b) (s : State) :
    pushImpulse l d s = pushBit b s := by
  have hd : d ≠ 0 := ne_zero_of_classify_ne_invalid (l := l) (by simp [hc])
  simp [pushImpulse, hd, hc, push]

theorem pushImpulse_of_minuteMark {l : Level} {d : Nat} (hc : classify l d = .minuteMark) (s : State) :
    pushImpulse l d s = minuteMark s := by
  have hd : d ≠ 0 := ne_zero_of_classify_ne_invalid (l := l) (by simp [hc])
  by_cases h59 : s.length = 59 <;> simp [pushImpulse, hd, hc, push, minuteMark, h59]

/-! ## Frames: which cells an operation can write (spec/10_state.md R21) -/

/-- `t` has the cells, the internal value and the input of `s`. -/
structure KeepsCells (s t : State) : Prop where
  buf : t.buf = s.buf
  value : t.value = s.value
  input : t.input = s.input

/-- `t` differs from `s` in no cell but the one numbered by the `length` of `s`, and in none when `s` is full; the
internal value and the input are those of `s`. -/
structure StoresOnlyAtLength (s t : State) : Prop where
  otherCells : ∀ j, j ≠ s.length.val → bitAt t.buf j = bitAt s.buf j
  closed : s.length = 59 → t.buf = s.buf
  value : t.value = s.value
  input : t.input = s.input

theorem KeepsCells.storesOnlyAtLength {s t : State} (h : KeepsCells s t) : StoresOnlyAtLength s t :=
  ⟨fun j _ => by rw [h.buf], fun _ => h.buf, h.value, h.input⟩

theorem keepsCells_raise (k : Status) (c : Fin 7) (s : State) : KeepsCells s (raise k c s) := ⟨rfl, rfl, rfl⟩

theorem keepsCells_judgeFrame (f : Frame) (n : Fin 60) (s : State) :
    KeepsCells s (judgeFrame f (s.setLength n)) := by
  unfold judgeFrame
  split <;> exact ⟨rfl, rfl, rfl⟩

theorem keepsCells_minuteMark (s : State) : KeepsCells s (minuteMark s) := by
  unfold minuteMark
  split
  · exact keepsCells_judgeFrame s.buf 0 s
  · exact keepsCells_raise .resync 0 s

/-- The append writes the cell at `length` (41_frame_accumulator.md R104); a full frame takes no bit. -/
theorem storesOnlyAtLength_appendBit (b : Bool) (s : State) (h : s.length.val < 59) :
    StoresOnlyAtLength s (appendBit b s h) where
  otherCells j hj := by rw [appendBit_buf, bitAt_setBit _ _ _ _ h, if_neg hj]
  closed h59 := by simp [h59] at h
  value := rfl
  input := rfl

theorem storesOnlyAtLength_pushBit (b : Bool) (s : State) : StoresOnlyAtLength s (pushBit b s) := by
  by_cases h : s.length.val < 59
  · rw [pushBit_append b s h]
    exact storesOnlyAtLength_appendBit b s h
  · rw [pushBit_overflow b s h]
    exact (keepsCells_raise .overflow 0 s).storesOnlyAtLength

theorem storesOnlyAtLength_pushImpulse (l : Level) (d : Nat) (s : State) :
    StoresOnlyAtLength s (pushImpulse l d s) := by
  by_cases hd : d = 0
  · rw [hd, pushImpulse_zero]
    exact (keepsCells_raise .resetCmd 0 s).storesOnlyAtLength
  cases hc : classify l d with
  | invalid =>
    rw [pushImpulse_of_invalid hd hc]
    exact (keepsCells_raise .invalidPulse 0 s).storesOnlyAtLength
  | bit b =>
    rw [pushImpulse_of_bit hc]
    exact storesOnlyAtLength_pushBit b s
  | minuteMark =>
    rw [pushImpulse_of_minuteMark hc]
    exact (keepsCells_minuteMark s).storesOnlyAtLength

end Sys2Proof.Machine

namespace Sys2Proof.Safety

open Sys2Proof.Machine

/-! ## What a pulse does to `length` (spec/10_state.md R24) -/

theorem pulseBit_eq_some {l : Level} {d : Nat} {b : Bool} :
    pulseBit ⟨l, d⟩ = some b ↔ classify l d = .bit b := by
  unfold pulseBit
  cases classify l d <;> simp

theorem pulseBit_eq_none {l : Level} {d : Nat} (h : ∀ b, classify l d ≠ .bit b) : pulseBit ⟨l, d⟩ = none :=
  Option.eq_none_iff_forall_ne_some.mpr fun b hb => h b (pulseBit_eq_some.mp hb)

/-- A pulse either is a bit that is appended below 59, or leaves `length` at 0. -/
theorem pushImpulse_appends_or_clears (l : Level) (d : Nat) (s : State) :
    (∃ b h, pulseBit ⟨l, d⟩ = some b ∧ pushImpulse l d s = appendBit b s h) ∨
    (¬ ((pulseBit ⟨l, d⟩).isSome = true ∧ s.length.val < 59) ∧ (pushImpulse l d s).length = 0) := by
  obtain ⟨hd, e⟩ | ⟨_, hc, e⟩ | ⟨_, b, h, hc, e⟩ | ⟨_, b, hc, h59, e⟩ | ⟨_, hc, _, e⟩ | ⟨_, hc, _, _, e⟩ |
    ⟨_, hc, _, _, e⟩ := pushImpulse_cases l d s
  case inr.inr.inl => exact .inl ⟨b, h, pulseBit_eq_some.mpr hc, e⟩
  case inr.inr.inr.inl => exact .inr ⟨by simp [h59], by rw [e]; rfl⟩
  case inl => exact .inr ⟨by simp [pulseBit_eq_none, hd, classify_zero], by rw [e]; rfl⟩
  all_goals exact .inr ⟨by simp [pulseBit_eq_none, hc], by rw [e]; rfl⟩

theorem pushImpulse_length (l : Level) (d : Nat) (s : State) :
    (pushImpulse l d s).length.val =
      if (pulseBit ⟨l, d⟩).isSome = true ∧ s.length.val < 59 then s.length.val + 1 else 0 := by
  obtain ⟨b, h, hb, e⟩ | ⟨hno, h0⟩ := pushImpulse_appends_or_clears l d s
  · rw [if_pos ⟨by rw [hb]; rfl, h⟩, e, appendBit_length]
  · rw [if_neg hno, h0]
    rfl

/-! ## Stale cells (spec/10_state.md R35) -/

/-- The two states look alike to an observer, now and after any pulses: same outputs, same live part. -/
structure SameView (s t : State) : Prop where
  live : SameLive s t
  output : outputOf s = outputOf t

/-- At `length` 0 no cell is live. -/
theorem sameLive_of_length_zero {s t : State} (hs : s.length = 0) (ht : t.length = 0) : SameLive s t :=
  ⟨hs.trans ht.symm, fun i hi => absurd hi (by simp [hs])⟩

/-- In a closed frame every cell is live. -/
theorem SameLive.buf_eq_of_closed {s t : State} (h : SameLive s t) (h59 : s.length = 59) : s.buf = t.buf :=
  frame_eq_of_bitAt fun i hi => h.2 i (by simpa [h59] using hi)

theorem sameView_raise (k : Status) (c : Fin 7) (s t : State) : SameView (raise k c s) (raise k c t) :=
  ⟨sameLive_of_length_zero rfl rfl, rfl⟩

theorem sameView_judgeFrame (f : Frame) (s t : State) :
    SameView (judgeFrame f (s.setLength 0)) (judgeFrame f (t.setLength 0)) := by
  unfold judgeFrame
  split <;> exact ⟨sameLive_of_length_zero rfl rfl, rfl⟩

/-- The live cells after an append are the live cells before it and the new one. -/
theorem SameLive.appendBit {s t : State} (h : SameLive s t) (b : Bool) (hs : s.length.val < 59)
    (ht : t.length.val < 59) : SameView (appendBit b s hs) (appendBit b t ht) := by
  obtain ⟨hlen, hcells⟩ := h
  refine ⟨⟨Fin.ext (by simp [hlen]), fun i hi => ?_⟩, rfl⟩
  rw [appendBit_buf, appendBit_buf, bitAt_setBit _ _ _ _ hs, bitAt_setBit _ _ _ _ ht, ← hlen]
  split
  · rfl
  · next hne =>
    rw [appendBit_length] at hi
    exact hcells i (by omega)

theorem SameLive.pushBit {s t : State} (h : SameLive s t) (b : Bool) : SameView (pushBit b s) (pushBit b t) := by
  by_cases hs : s.length.val < 59
  · have ht : t.length.val < 59 := h.1 ▸ hs
    rw [pushBit_append b s hs, pushBit_append b t ht]
    exact h.appendBit b hs ht
  · have ht : ¬ t.length.val < 59 := h.1 ▸ hs
    rw [pushBit_overflow b s hs, pushBit_overflow b t ht]
    exact sameView_raise .overflow 0 s t

/-- The frame a minute mark judges is closed, so all of it is live. -/
theorem SameLive.minuteMark {s t : State} (h : SameLive s t) : SameView (minuteMark s) (minuteMark t) := by
  unfold Machine.minuteMark
  rw [← h.1]
  split
  · next h59 =>
    rw [h.buf_eq_of_closed h59]
    exact sameView_judgeFrame t.buf s t
  · exact sameView_raise .resync 0 s t

theorem SameLive.pushImpulse {s t : State} (h : SameLive s t) (l : Level) (d : Nat) :
    SameView (pushImpulse l d s) (pushImpulse l d t) := by
  by_cases hd : d = 0
  · rw [hd, pushImpulse_zero, pushImpulse_zero]
    exact sameView_raise .resetCmd 0 s t
  cases hc : classify l d with
  | invalid =>
    rw [pushImpulse_of_invalid hd hc, pushImpulse_of_invalid hd hc]
    exact sameView_raise .invalidPulse 0 s t
  | bit b =>
    rw [pushImpulse_of_bit hc, pushImpulse_of_bit hc]
    exact h.pushBit b
  | minuteMark =>
    rw [pushImpulse_of_minuteMark hc, pushImpulse_of_minuteMark hc]
    exact h.minuteMark

/-- Settles O46: every pulse keeps two states alike in their live part and gives them the same outputs. -/
theorem staleCellsAreNeverObserved : Obligations.StaleCellsAreNeverObserved := by
  intro ps
  induction ps with
  | nil => exact fun _ _ _ => rfl
  | cons p ps ih =>
    intro s t h
    have hstep := h.pushImpulse p.level p.durationMs
    rw [observe, observe, hstep.output, ih _ _ hstep.live]

/-! ## The cells below `length` (spec/10_state.md R23 (b)) -/

/-- The cells below `length` hold the bits of the pulses of the list, in order, one cell for each. -/
structure HoldsBitsOf (since : List Pulse) (s : State) : Prop where
  length_eq : since.length = s.length.val
  cells : ∀ i, i < s.length.val → ∃ p, since[i]? = some p ∧ pulseBit p = some (bitAt s.buf i)

theorem holdsBitsOf_nil {s : State} (h : s.length = 0) : HoldsBitsOf [] s :=
  ⟨by simp [h], fun i hi => absurd hi (by simp [h])⟩

/-- An appended bit is that of the last pulse, and the cells before it stay. -/
theorem HoldsBitsOf.appendBit {since : List Pulse} {s : State} (h : HoldsBitsOf since s) {p : Pulse} {b : Bool}
    (hp : pulseBit p = some b) (hs : s.length.val < 59) : HoldsBitsOf (since ++ [p]) (appendBit b s hs) where
  length_eq := by simp [h.length_eq]
  cells i hi := by
    rw [appendBit_length] at hi
    rw [appendBit_buf, bitAt_setBit _ _ _ _ hs]
    by_cases hlast : i = s.length.val
    · exact ⟨p, by simp [hlast, ← h.length_eq], by rw [if_pos hlast, hp]⟩
    · have hlt : i < s.length.val := by omega
      obtain ⟨q, hq, hbit⟩ := h.cells i hlt
      exact ⟨q, by rw [List.getElem?_append_left (h.length_eq ▸ hlt), hq], by rw [if_neg hlast, hbit]⟩

/-- After any pulses from an empty frame, the frame holds the bits of the pulses since `length` was last 0. -/
theorem exists_holdsBitsOf_feed (ps : List Pulse) {s : State} (h0 : s.length = 0) :
    ∃ before since, ps = before ++ since ∧ (feed before s).length = 0 ∧ HoldsBitsOf since (feed ps s) := by
  induction ps using List.reverseRecOn with
  | nil => exact ⟨[], [], rfl, h0, holdsBitsOf_nil h0⟩
  | append_singleton ps p ih =>
    rw [feed_snoc]
    obtain ⟨b, hlt, hp, e⟩ | ⟨_, hzero⟩ := pushImpulse_appends_or_clears p.level p.durationMs (feed ps s)
    · obtain ⟨before, since, hps, hbefore, hholds⟩ := ih
      rw [e]
      exact ⟨before, since ++ [p], by rw [hps, List.append_assoc], hbefore, hholds.appendBit hp hlt⟩
    · exact ⟨ps ++ [p], [], by simp, by rw [feed_snoc, hzero], holdsBitsOf_nil hzero⟩

/-- Settles O47, by the invariant `HoldsBitsOf` along the run. -/
theorem bufferHoldsTheBitsSinceTheLastReset : Obligations.BufferHoldsTheBitsSinceTheLastReset := by
  intro ps s h0
  obtain ⟨before, since, hps, hbefore, hholds⟩ := exists_holdsBitsOf_feed ps h0
  exact ⟨before, since, hps, hbefore, hholds.length_eq, hholds.cells⟩

/-- Settles O51, by the two effects a pulse can have on `length`. -/
theorem lengthAdvancesByOneOrIsCleared : Obligations.LengthAdvancesByOneOrIsCleared :=
  fun l d s => ⟨pushImpulse l d s, rfl, pushImpulse_length l d s⟩

/-- Settles O54, by the frame of the append and of PUSH_IMPULSE. -/
theorem storingOperationsLeaveOtherCells : Obligations.StoringOperationsLeaveOtherCells := by
  intro i l d s t hi ht
  have hframe : StoresOnlyAtLength s t := by
    obtain rfl | rfl | rfl := hi <;> cases ht
    · exact storesOnlyAtLength_pushBit false s
    · exact storesOnlyAtLength_pushBit true s
    · exact storesOnlyAtLength_pushImpulse l d s
  exact ⟨hframe.otherCells, hframe.closed, hframe.value, hframe.input⟩

/-- Settles O55: each row either raises or is a minute mark, and neither writes a cell. -/
theorem nonStoringOperationsLeaveEveryCell : Obligations.NonStoringOperationsLeaveEveryCell := by
  intro i l d s t hi ht
  have hframe : KeepsCells s t := by
    obtain rfl | rfl | rfl | rfl | rfl | rfl | rfl := hi <;> cases ht
    case inr.inl => exact keepsCells_minuteMark s
    all_goals exact keepsCells_raise _ _ s
  exact ⟨fun j => by rw [hframe.buf], hframe.value, hframe.input⟩

/-! ## Reset (spec/10_state.md R34) -/

/-- Settles O42: each value is the field of `State.reset`. -/
theorem resetValuesOfTheSpec : Obligations.ResetValuesOfTheSpec := ⟨rfl, rfl, rfl, rfl, rfl⟩

/-- Settles O44: at reset no result stands and the status reads APPENDED, so each clause is closed. -/
theorem resetStateIsConsistent : Obligations.ResetStateIsConsistent where
  result_iff := by decide
  check_iff := by decide
  structural_check := by decide
  parity_check := by decide
  length_zero := by decide
  result_range t ht := nomatch ht
  no_value := rfl

end Sys2Proof.Safety

/-! PROOFS. The memory of spec/20_memory.md: a run of the machine as the fold of PUSH_IMPULSE (R49), and the cells no
check and no field reads (R45). -/

namespace Sys2Proof.Machine

/-! ## The row of a pulse (spec/30_encoding.md R64) -/

theorem decodePulse_low {d : Nat} (hd : d ≠ 0) :
    decodePulse ⟨.low, d⟩ = if d < 600 then .invLs d else if d ≤ 1400 then .mark d else .invLl d := if_neg hd

theorem decodePulse_high {d : Nat} (hd : d ≠ 0) :
    decodePulse ⟨.high, d⟩ =
      if d < 40 then .invHs d else if d ≤ 130 then .bit0 d else if d < 140 then .invHg d
      else if d ≤ 250 then .bit1 d else .invHl d := if_neg hd

theorem rowSymbol_decodePulse (l : Level) {d : Nat} (hd : d ≠ 0) :
    (decodePulse ⟨l, d⟩).rowSymbol = some (classify l d) := by
  cases l with
  | low =>
    rw [decodePulse_low hd, classify_low]
    split_ifs <;> simp [Instr.rowSymbol] <;> omega
  | high =>
    rw [decodePulse_high hd, classify_high]
    split_ifs <;> simp [Instr.rowSymbol] <;> omega

/-! ## The operation of a row, by the row's symbol (spec/44_decoder_top.md R167 to R170) -/

theorem exec_of_rowSymbol_invalid {i : Instr} (h : i.rowSymbol = some .invalid) (s : State) :
    exec i s = .next (raise .invalidPulse 0 s) := by
  cases i <;> cases h <;> rfl

theorem exec_of_rowSymbol_bit {i : Instr} {b : Bool} (h : i.rowSymbol = some (.bit b)) (s : State) :
    exec i s = .next (pushBit b s) := by
  cases i <;> cases h <;> rfl

theorem exec_of_rowSymbol_minuteMark {i : Instr} (h : i.rowSymbol = some .minuteMark) (s : State) :
    exec i s = .next (minuteMark s) := by
  cases i <;> cases h
  rfl

/-- The row a pulse selects does what PUSH_IMPULSE does on the pulse. -/
theorem exec_decodePulse (l : Level) (d : Nat) (s : State) :
    exec (decodePulse ⟨l, d⟩) s = .next (pushImpulse l d s) := by
  by_cases hd : d = 0
  · subst hd
    rfl
  have hrow := rowSymbol_decodePulse l hd
  cases hc : classify l d with
  | invalid => rw [pushImpulse_of_invalid hd hc, exec_of_rowSymbol_invalid (hc ▸ hrow)]
  | bit b => rw [pushImpulse_of_bit hc, exec_of_rowSymbol_bit (hc ▸ hrow)]
  | minuteMark => rw [pushImpulse_of_minuteMark hc, exec_of_rowSymbol_minuteMark (hc ▸ hrow)]

/-! ## The machine over presented pulses (spec/44_decoder_top.md R173) -/

theorem step_of_presented {s : State} {p : Pulse} (h : presented s = .pulse p) :
    step s = exec (decodePulse p) (takeSample s) := by
  rw [step, h]

theorem presented_samplePulse {s : State} {p : Pulse} {qs : List PortSample} (h : s.input = samplePulse p :: qs) :
    presented s = .pulse p := by
  rw [presented, h]
  rfl

theorem step_samplePulse {s : State} {p : Pulse} {qs : List PortSample} (h : s.input = samplePulse p :: qs) :
    step s = .next ((pushImpulse p.level p.durationMs s).setInput qs) := by
  rw [step_of_presented (presented_samplePulse h), exec_decodePulse, takeSample, h, List.tail_cons,
    Safety.pushImpulse_setInput]

theorem run_succ_of_step {s t : State} (h : step s = .next t) (k : Nat) :
    Sys2Proof.core.run (k + 1) s = Sys2Proof.core.run k t := by
  have hcore : Sys2Proof.core.step s = .next t := h
  simp only [Host.Core.run, hcore]

end Sys2Proof.Machine

namespace Sys2Proof.Safety

open Sys2Proof.Machine

/-- Settles O45, by induction on the pulses: each step takes one sample and does what PUSH_IMPULSE does. -/
theorem stepsOverPulsesAreTheFoldOfPushImpulse : Obligations.StepsOverPulsesAreTheFoldOfPushImpulse := by
  intro ps
  induction ps with
  | nil =>
    rintro s rest rfl
    rfl
  | cons p ps ih =>
    intro s rest hs
    calc Sys2Proof.core.run (ps.length + 1) s
      _ = Sys2Proof.core.run ps.length
            ((pushImpulse p.level p.durationMs s).setInput (ps.map samplePulse ++ rest)) :=
        run_succ_of_step (step_samplePulse hs) ps.length
      _ = .next (feed ps ((pushImpulse p.level p.durationMs s).setInput rest)) := ih _ rest rfl
      _ = .next (feed (p :: ps) (s.setInput rest)) := by rw [feed_cons, pushImpulse_setInput]

/-! ## Cells no check and no field reads (spec/20_memory.md R45) -/

/-- The two frames hold the same bit at every position that some check or some field reads. -/
def AgreeExamined (f g : Frame) : Prop := ∀ i, unexamined i = false → bitAt f i = bitAt g i

theorem unexamined_of_twenty_le {i : Nat} (hi : 20 ≤ i) : unexamined i = false := by
  simp [unexamined, within]
  omega

theorem AgreeExamined.xorRange_eq {f g : Frame} (h : AgreeExamined f g) (r : Config.Range) (hr : 20 ≤ r.first) :
    xorRange f r = xorRange g r :=
  xorBits_congr fun i hi _ => h i (unexamined_of_twenty_le (hr.trans hi))

theorem AgreeExamined.bcdField_eq {f g : Frame} (h : AgreeExamined f g) (r : Config.Range) (hr : 20 ≤ r.first) :
    bcdField f r = bcdField g r :=
  bcd_congr fun i hi _ => h i (unexamined_of_twenty_le (hr.trans hi))

theorem AgreeExamined.firstFailingCheck_eq {f g : Frame} (h : AgreeExamined f g) :
    firstFailingCheck f = firstFailingCheck g := by
  have h1 : check1 f = check1 g := congrArg (!·) (h Config.idxStart rfl)
  have h2 : check2 f = check2 g := h Config.idxTimeStart rfl
  have h3 : check3 f = check3 g := congrArg₂ (· ^^ ·) (h Config.idxDstA rfl) (h Config.idxDstB rfl)
  have h4 : check4 f = check4 g := congrArg (!·) (h.xorRange_eq Config.parMin (by decide))
  have h5 : check5 f = check5 g := congrArg (!·) (h.xorRange_eq Config.parHour (by decide))
  have h6 : check6 f = check6 g := congrArg (!·) (h.xorRange_eq Config.parDate (by decide))
  rw [firstFailingCheck, h1, h2, h3, h4, h5, h6, firstFailingCheck]

theorem AgreeExamined.validate_eq {f g : Frame} (h : AgreeExamined f g) : validate f = validate g := by
  rw [Bool.eq_iff_iff, ← firstFailingCheck_eq_zero, ← firstFailingCheck_eq_zero, h.firstFailingCheck_eq]

theorem AgreeExamined.decode_eq {f g : Frame} (h : AgreeExamined f g) : decode f = decode g := by
  rw [decode, h.bcdField_eq Config.fMinute (by decide), h.bcdField_eq Config.fHour (by decide),
    h.bcdField_eq Config.fDay (by decide), h.bcdField_eq Config.fWeekday (by decide),
    h.bcdField_eq Config.fMonth (by decide), h.bcdField_eq Config.fYear (by decide), h Config.idxDstA rfl, decode]

theorem AgreeExamined.setBit {f g : Frame} (h : AgreeExamined f g) {n : Nat} (hn : n < 59) (b : Bool) :
    AgreeExamined (setBit f n b) (setBit g n b) := fun i hi => by
  rw [bitAt_setBit _ _ _ _ hn, bitAt_setBit _ _ _ _ hn, h i hi]

/-- The two states have the same `length` and the same examined cells. -/
structure SameExamined (s t : State) : Prop where
  length : s.length = t.length
  cells : AgreeExamined s.buf t.buf

/-- The two states have the same `length`, the same examined cells and the same outputs. -/
structure SameExaminedView (s t : State) : Prop where
  examined : SameExamined s t
  output : outputOf s = outputOf t

theorem SameExamined.raise {s t : State} (h : SameExamined s t) (k : Status) (c : Fin 7) :
    SameExaminedView (raise k c s) (raise k c t) :=
  ⟨⟨rfl, h.cells⟩, rfl⟩

theorem SameExamined.deliver {s t : State} (h : SameExamined s t) (r : DecodedTime) :
    SameExaminedView (deliver r s) (deliver r t) :=
  ⟨⟨h.length, h.cells⟩, rfl⟩

theorem SameExamined.pushBit {s t : State} (h : SameExamined s t) (b : Bool) :
    SameExaminedView (pushBit b s) (pushBit b t) := by
  by_cases hs : s.length.val < 59
  · have ht : t.length.val < 59 := h.length ▸ hs
    have hcells : AgreeExamined (appendBit b s hs).buf (appendBit b t ht).buf := by
      rw [appendBit_buf, appendBit_buf, ← h.length]
      exact h.cells.setBit hs b
    rw [pushBit_append b s hs, pushBit_append b t ht]
    exact ⟨⟨Fin.ext (by simp [h.length]), hcells⟩, rfl⟩
  · have ht : ¬ t.length.val < 59 := h.length ▸ hs
    rw [pushBit_overflow b s hs, pushBit_overflow b t ht]
    exact h.raise .overflow 0

/-- The verdict, the time and the failing check are the same for frames that agree where examined. -/
theorem SameExamined.judgeFrame {s t : State} (h : SameExamined s t) {f g : Frame} (hfg : AgreeExamined f g) :
    SameExaminedView (judgeFrame f s) (judgeFrame g t) := by
  rw [Machine.judgeFrame, Machine.judgeFrame, hfg.validate_eq, hfg.decode_eq, hfg.firstFailingCheck_eq]
  split
  · exact h.deliver _
  · exact h.raise _ _

theorem SameExamined.minuteMark {s t : State} (h : SameExamined s t) :
    SameExaminedView (minuteMark s) (minuteMark t) := by
  have hcleared : SameExamined (s.setLength 0) (t.setLength 0) := ⟨rfl, h.cells⟩
  rw [Machine.minuteMark, Machine.minuteMark, h.length]
  split
  · exact hcleared.judgeFrame h.cells
  · exact h.raise .resync 0

theorem SameExamined.pushImpulse {s t : State} (h : SameExamined s t) (l : Level) (d : Nat) :
    SameExaminedView (pushImpulse l d s) (pushImpulse l d t) := by
  by_cases hd : d = 0
  · rw [hd, pushImpulse_zero, pushImpulse_zero]
    exact h.raise .resetCmd 0
  cases hc : classify l d with
  | invalid =>
    rw [pushImpulse_of_invalid hd hc, pushImpulse_of_invalid hd hc]
    exact h.raise .invalidPulse 0
  | bit b =>
    rw [pushImpulse_of_bit hc, pushImpulse_of_bit hc]
    exact h.pushBit b
  | minuteMark =>
    rw [pushImpulse_of_minuteMark hc, pushImpulse_of_minuteMark hc]
    exact h.minuteMark

theorem SameExamined.observe_eq (ps : List Pulse) {s t : State} (h : SameExamined s t) :
    observe ps s = observe ps t := by
  induction ps generalizing s t with
  | nil => rfl
  | cons p ps ih =>
    have hstep := h.pushImpulse p.level p.durationMs
    rw [observe, observe, hstep.output, ih hstep.examined]

/-- Settles O53: every pulse keeps the examined cells of two states alike and gives them the same outputs. -/
theorem unexaminedCellsCannotChangeAnyResult : Obligations.UnexaminedCellsCannotChangeAnyResult :=
  fun ps _ _ hlength hcells => SameExamined.observe_eq ps ⟨hlength, hcells⟩

end Sys2Proof.Safety

/-! PROOFS. The encodings of spec/30_encoding.md: the pulse word and its nine rows (R62 to R66, R78), the items
of a pulse stream (R77) and the frame's free positions (R69). -/

namespace Sys2Proof

open Machine
open Laws.EncodedWordFits (pow_ge)

/-! ## The window of each row (spec/30_encoding.md R64, R65) -/

theorem within_eq_true {lo hi d : Nat} : within lo hi d = true ↔ lo ≤ d ∧ d ≤ hi := by simp [within]

theorem decodePulse_zero (l : Level) : decodePulse ⟨l, 0⟩ = .resetcmd l := rfl

theorem decodePulse_invLs {d : Nat} (h1 : 1 ≤ d) (h2 : d ≤ 599) : decodePulse ⟨.low, d⟩ = .invLs d := by
  rw [decodePulse_low (by omega), if_pos (by omega)]

theorem decodePulse_mark {d : Nat} (h1 : 600 ≤ d) (h2 : d ≤ 1400) : decodePulse ⟨.low, d⟩ = .mark d := by
  rw [decodePulse_low (by omega), if_neg (by omega), if_pos h2]

theorem decodePulse_invLl {d : Nat} (h1 : 1401 ≤ d) : decodePulse ⟨.low, d⟩ = .invLl d := by
  rw [decodePulse_low (by omega), if_neg (by omega), if_neg (by omega)]

theorem decodePulse_invHs {d : Nat} (h1 : 1 ≤ d) (h2 : d ≤ 39) : decodePulse ⟨.high, d⟩ = .invHs d := by
  rw [decodePulse_high (by omega), if_pos (by omega)]

theorem decodePulse_bit0 {d : Nat} (h1 : 40 ≤ d) (h2 : d ≤ 130) : decodePulse ⟨.high, d⟩ = .bit0 d := by
  rw [decodePulse_high (by omega), if_neg (by omega), if_pos h2]

theorem decodePulse_invHg {d : Nat} (h1 : 131 ≤ d) (h2 : d ≤ 139) : decodePulse ⟨.high, d⟩ = .invHg d := by
  rw [decodePulse_high (by omega), if_neg (by omega), if_neg (by omega), if_pos (by omega)]

theorem decodePulse_bit1 {d : Nat} (h1 : 140 ≤ d) (h2 : d ≤ 250) : decodePulse ⟨.high, d⟩ = .bit1 d := by
  rw [decodePulse_high (by omega), if_neg (by omega), if_neg (by omega), if_neg (by omega), if_pos h2]

theorem decodePulse_invHl {d : Nat} (h1 : 251 ≤ d) : decodePulse ⟨.high, d⟩ = .invHl d := by
  rw [decodePulse_high (by omega), if_neg (by omega), if_neg (by omega), if_neg (by omega), if_neg (by omega)]

/-! ## A row's instruction and the pulse it stands for -/

/-- The row a pulse selects stands for that pulse. -/
theorem toPulse_decodePulse (p : Pulse) : (decodePulse p).toPulse = some p := by
  obtain ⟨l, d⟩ := p
  by_cases hd : d = 0
  · rw [hd, decodePulse_zero]
    rfl
  cases l with
  | low => rw [decodePulse_low hd]; split_ifs <;> rfl
  | high => rw [decodePulse_high hd]; split_ifs <;> rfl

/-- The pulse of a well-formed row instruction selects that row: its duration lies in the row's window. -/
theorem decodePulse_of_toPulse {w : Nat} {i : Instr} {p : Pulse} (hw : i.wellFormed w = true)
    (hp : i.toPulse = some p) : decodePulse p = i := by
  cases i <;> cases hp
  case resetcmd l => exact decodePulse_zero l
  all_goals obtain ⟨hlo, hhi⟩ := within_eq_true.mp hw
  case invLs => exact decodePulse_invLs hlo hhi
  case mark => exact decodePulse_mark hlo hhi
  case invLl => exact decodePulse_invLl hlo
  case invHs => exact decodePulse_invHs hlo hhi
  case bit0 => exact decodePulse_bit0 hlo hhi
  case invHg => exact decodePulse_invHg hlo hhi
  case bit1 => exact decodePulse_bit1 hlo hhi
  case invHl => exact decodePulse_invHl hlo

/-- No row's window reaches beyond `2^w - 1` (R7: `DUR_W` is 11 or more). -/
theorem durationMs_lt_of_toPulse {w : Nat} {i : Instr} {p : Pulse} (h11 : 11 ≤ w) (hw : i.wellFormed w = true)
    (hp : i.toPulse = some p) : p.durationMs < 2 ^ w := by
  have h2048 := pow_ge h11
  cases i <;> cases hp
  case resetcmd => exact Nat.two_pow_pos w
  all_goals
    obtain ⟨_, hhi⟩ := within_eq_true.mp hw
    exact lt_of_le_of_lt hhi (by omega)

/-- The row a pulse selects has the pulse's duration in its window. -/
theorem wellFormed_decodePulse {w : Nat} {p : Pulse} (hd : p.durationMs < 2 ^ w) :
    (decodePulse p).wellFormed w = true := by
  obtain ⟨l, d⟩ := p
  have hmax : d ≤ 2 ^ w - 1 := Nat.le_sub_one_of_lt hd
  by_cases h0 : d = 0
  · rw [h0, decodePulse_zero]
    rfl
  cases l with
  | low => rw [decodePulse_low h0]; split_ifs <;> exact within_eq_true.mpr (by omega)
  | high => rw [decodePulse_high h0]; split_ifs <;> exact within_eq_true.mpr (by omega)

/-- The rows that stand for a pulse are the nine rows of R64. -/
theorem isSome_toPulse (i : Instr) : i.toPulse.isSome = i.pulseClass.isSome := by cases i <;> rfl

/-! ## The pulse word (spec/30_encoding.md R62) -/

theorem decodeWord_of_unpackPulse {w word : Nat} {p : Pulse} (h : unpackPulse w word = some p) :
    decodeWord w word = .instr (decodePulse p) := by
  rw [decodeWord, h]

theorem decodeWord_packPulse {w : Nat} {p : Pulse} (hd : p.durationMs < 2 ^ w) :
    decodeWord w (packPulse w p) = .instr (decodePulse p) :=
  decodeWord_of_unpackPulse (unpackPulse_packPulse hd)

/-- Every number of `w + 1` bits is the packed word of a pulse whose duration fits. -/
theorem exists_packPulse_eq {w word : Nat} (h : word < 2 ^ (w + 1)) :
    ∃ p, p.durationMs < 2 ^ w ∧ packPulse w p = word := by
  have hunpack : unpackPulse w word = some ⟨Level.ofBit (decide (2 ^ w ≤ word)), word % 2 ^ w⟩ := if_pos h
  obtain ⟨hpack, hd⟩ := packPulse_of_unpackPulse hunpack
  exact ⟨_, hd, hpack⟩

theorem encode_eq_some {w word : Nat} {i : Instr} :
    encode w i = some word ↔ ∃ p, i.toPulse = some p ∧ packPulse w p = word := Option.map_eq_some_iff

/-- Settles O1: the word of a row unpacks to the row's pulse, which selects the row. -/
theorem encodedInstructionsDecodeToThemselves : Obligations.EncodedInstructionsDecodeToThemselves := by
  intro w i h11 hw
  refine ⟨fun word hword => ?_, by rw [encode, Option.isSome_map, isSome_toPulse]⟩
  obtain ⟨p, hp, rfl⟩ := encode_eq_some.mp hword
  rw [decodeWord_packPulse (durationMs_lt_of_toPulse h11 hw hp), decodePulse_of_toPulse hw hp]

/-- Settles O2: the word is that of a pulse, and the row the pulse selects stands for that pulse. -/
theorem everyPulseWordDecodesAndEncodesBack : Obligations.EveryPulseWordDecodesAndEncodesBack := by
  intro w word _ hword
  obtain ⟨p, hd, rfl⟩ := exists_packPulse_eq hword
  have hp := toPulse_decodePulse p
  refine ⟨decodePulse p, decodeWord_packPulse hd, wellFormed_decodePulse hd, ?_, encode_eq_some.mpr ⟨p, hp, rfl⟩⟩
  rw [← isSome_toPulse, hp]
  rfl

/-! ## The opcode table at `DUR_W` = 16 (spec/30_encoding.md R78) -/

/-- The bit that the level mask keeps is the level. -/
theorem packPulse_and_levelMask {l : Level} {d : Nat} (hd : d < 2 ^ 16) :
    packPulse 16 ⟨l, d⟩ &&& 0x10000 = l.toBit.toNat * 0x10000 := by
  have hbit : (packPulse 16 ⟨l, d⟩).testBit 16 = l.toBit := by
    have hlow : d.testBit 16 = false := Nat.testBit_lt_two_pow hd
    cases l with
    | low => simpa [packPulse, Level.toBit] using hlow
    | high =>
      rw [packPulse, Level.toBit, Bool.toNat_true, Nat.one_mul, Nat.testBit_two_pow_add_eq, hlow, Bool.not_false]
  rw [show 0x10000 = 2 ^ 16 from rfl, Nat.and_two_pow, hbit]

theorem packPulse_mod {w : Nat} {l : Level} {d : Nat} (hd : d < 2 ^ w) : packPulse w ⟨l, d⟩ % 2 ^ w = d := by
  rw [packPulse, Nat.mul_add_mod_self_right, Nat.mod_eq_of_lt hd]

/-- A row of the table whose mask keeps the level bit alone: the class `c`, the level and the duration range. -/
def levelRow (c : PulseClass) (l : Level) (lo hi : Nat) : OpcodeRow := ⟨c, l.toBit.toNat * 0x10000, 0x10000, lo, hi⟩

/-- The row that masks the level out. -/
def resetcmdRow : OpcodeRow := ⟨.resetcmd, 0x00000, 0x0FFFF, 0, 0⟩

theorem opcodeTable_eq : opcodeTable =
    [resetcmdRow, levelRow .invLs .low 1 599, levelRow .mark .low 600 1400, levelRow .invLl .low 1401 65535,
      levelRow .invHs .high 1 39, levelRow .bit0 .high 40 130, levelRow .invHg .high 131 139,
      levelRow .bit1 .high 140 250, levelRow .invHl .high 251 65535] := rfl

theorem selects_levelRow {c : PulseClass} {l l' : Level} {lo hi d : Nat} (hd : d < 2 ^ 16) :
    (levelRow c l' lo hi).selects (packPulse 16 ⟨l, d⟩) = true ↔ l = l' ∧ lo ≤ d ∧ d ≤ hi := by
  rw [OpcodeRow.selects, levelRow, packPulse_and_levelMask hd, packPulse_mod hd, Bool.and_eq_true, within_eq_true,
    decide_eq_true_eq]
  refine and_congr_left fun _ => ?_
  cases l <;> cases l' <;> simp [Level.toBit]

theorem selects_resetcmdRow {l : Level} {d : Nat} (hd : d < 2 ^ 16) :
    resetcmdRow.selects (packPulse 16 ⟨l, d⟩) = true ↔ d = 0 := by
  rw [OpcodeRow.selects, resetcmdRow, show 0x0FFFF = 2 ^ 16 - 1 from rfl, Nat.and_two_pow_sub_one_eq_mod,
    packPulse_mod hd]
  simp [within]

/-- A row of the table that selects a pulse's word is the row of the instruction the pulse selects. -/
theorem pulseClass_of_selects {r : OpcodeRow} (hr : r ∈ opcodeTable) {l : Level} {d : Nat} (hd : d < 2 ^ 16)
    (h : r.selects (packPulse 16 ⟨l, d⟩) = true) : (decodePulse ⟨l, d⟩).pulseClass = some r.row := by
  simp only [opcodeTable_eq, List.mem_cons, List.not_mem_nil, or_false] at hr
  obtain rfl | rfl | rfl | rfl | rfl | rfl | rfl | rfl | rfl := hr
  · rw [(selects_resetcmdRow hd).mp h, decodePulse_zero]
    rfl
  · obtain ⟨rfl, hlo, hhi⟩ := (selects_levelRow hd).mp h
    exact congrArg Instr.pulseClass (decodePulse_invLs hlo hhi)
  · obtain ⟨rfl, hlo, hhi⟩ := (selects_levelRow hd).mp h
    exact congrArg Instr.pulseClass (decodePulse_mark hlo hhi)
  · obtain ⟨rfl, hlo, _⟩ := (selects_levelRow hd).mp h
    exact congrArg Instr.pulseClass (decodePulse_invLl hlo)
  · obtain ⟨rfl, hlo, hhi⟩ := (selects_levelRow hd).mp h
    exact congrArg Instr.pulseClass (decodePulse_invHs hlo hhi)
  · obtain ⟨rfl, hlo, hhi⟩ := (selects_levelRow hd).mp h
    exact congrArg Instr.pulseClass (decodePulse_bit0 hlo hhi)
  · obtain ⟨rfl, hlo, hhi⟩ := (selects_levelRow hd).mp h
    exact congrArg Instr.pulseClass (decodePulse_invHg hlo hhi)
  · obtain ⟨rfl, hlo, hhi⟩ := (selects_levelRow hd).mp h
    exact congrArg Instr.pulseClass (decodePulse_bit1 hlo hhi)
  · obtain ⟨rfl, hlo, _⟩ := (selects_levelRow hd).mp h
    exact congrArg Instr.pulseClass (decodePulse_invHl hlo)

/-- The operand range of a row instruction is the duration range of its row in the table. -/
theorem exists_selects_of_toPulse {i : Instr} {p : Pulse} (hw : i.wellFormed 16 = true) (hp : i.toPulse = some p) :
    ∃ r ∈ opcodeTable, r.selects (packPulse 16 p) = true ∧ i.pulseClass = some r.row := by
  have hd := durationMs_lt_of_toPulse (by decide) hw hp
  cases i <;> cases hp
  case resetcmd => exact ⟨resetcmdRow, by decide, (selects_resetcmdRow hd).mpr rfl, rfl⟩
  all_goals have hwindow := within_eq_true.mp hw
  case invLs => exact ⟨levelRow .invLs .low 1 599, by decide, (selects_levelRow hd).mpr ⟨rfl, hwindow⟩, rfl⟩
  case mark => exact ⟨levelRow .mark .low 600 1400, by decide, (selects_levelRow hd).mpr ⟨rfl, hwindow⟩, rfl⟩
  case invLl => exact ⟨levelRow .invLl .low 1401 65535, by decide, (selects_levelRow hd).mpr ⟨rfl, hwindow⟩, rfl⟩
  case invHs => exact ⟨levelRow .invHs .high 1 39, by decide, (selects_levelRow hd).mpr ⟨rfl, hwindow⟩, rfl⟩
  case bit0 => exact ⟨levelRow .bit0 .high 40 130, by decide, (selects_levelRow hd).mpr ⟨rfl, hwindow⟩, rfl⟩
  case invHg => exact ⟨levelRow .invHg .high 131 139, by decide, (selects_levelRow hd).mpr ⟨rfl, hwindow⟩, rfl⟩
  case bit1 => exact ⟨levelRow .bit1 .high 140 250, by decide, (selects_levelRow hd).mpr ⟨rfl, hwindow⟩, rfl⟩
  case invHl => exact ⟨levelRow .invHl .high 251 65535, by decide, (selects_levelRow hd).mpr ⟨rfl, hwindow⟩, rfl⟩

/-- No class has two rows in the table. -/
theorem opcodeRow_eq_of_row_eq : ∀ r ∈ opcodeTable, ∀ r' ∈ opcodeTable, r'.row = r.row → r' = r := by decide

/-- Settles O3: the row of the instruction the word's pulse selects has the word, and any row that has it is of the
same class. -/
theorem opcodeTableRowsPartitionTheWords : Obligations.OpcodeTableRowsPartitionTheWords := by
  intro word hword
  obtain ⟨p, hd, rfl⟩ := exists_packPulse_eq hword
  obtain ⟨r, hr, hselects, hclass⟩ := exists_selects_of_toPulse (wellFormed_decodePulse hd) (toPulse_decodePulse p)
  refine ⟨r, decodePulse p, hr, hselects, fun r' hr' hselects' => ?_, decodeWord_packPulse hd, hclass⟩
  have hclass' : (decodePulse p).pulseClass = some r'.row := pulseClass_of_selects hr' hd hselects'
  exact opcodeRow_eq_of_row_eq r hr r' hr' (Option.some.inj (hclass'.symm.trans hclass))

/-! ## The operation map with its symbols (spec/30_encoding.md R64, 40_pulse_classifier.md R90) -/

/-- Settles O7, by the symbol column of the row a pulse selects. -/
theorem decodedRowHasTheClassifiersSymbol : Obligations.DecodedRowHasTheClassifiersSymbol :=
  fun p hd => rowSymbol_decodePulse p.level hd

/-- What one line of the operation map says of a duration in the line's window. -/
theorem decodeWord_and_classify {w d : Nat} {l : Level} {i : Instr} {sym : Symbol} (hd : d < 2 ^ w)
    (hi : decodePulse ⟨l, d⟩ = i) (hsym : i.rowSymbol = some sym) :
    decodeWord w (packPulse w ⟨l, d⟩) = .instr i ∧ classify l d = sym := by
  have h0 : d ≠ 0 := by
    rintro rfl
    rw [← hi, decodePulse_zero] at hsym
    cases hsym
  refine ⟨by rw [decodeWord_packPulse hd, hi], Option.some.inj ?_⟩
  rw [← rowSymbol_decodePulse l h0, hi, hsym]

/-- Settles O4, row by row: the row of the window, and its symbol. -/
theorem operationMapOfThePulseWord : Obligations.OperationMapOfThePulseWord := by
  intro w d _ hd
  refine ⟨?_, ?_, ?_, ?_, ?_, ?_, ?_, ?_, ?_⟩
  · rintro l rfl
    rw [decodeWord_packPulse hd, decodePulse_zero]
  · exact fun ⟨hlo, hhi⟩ => decodeWord_and_classify hd (decodePulse_invLs hlo hhi) rfl
  · exact fun ⟨hlo, hhi⟩ => decodeWord_and_classify hd (decodePulse_mark hlo hhi) rfl
  · exact fun hlo => decodeWord_and_classify hd (decodePulse_invLl hlo) rfl
  · exact fun ⟨hlo, hhi⟩ => decodeWord_and_classify hd (decodePulse_invHs hlo hhi) rfl
  · exact fun ⟨hlo, hhi⟩ => decodeWord_and_classify hd (decodePulse_bit0 hlo hhi) rfl
  · exact fun ⟨hlo, hhi⟩ => decodeWord_and_classify hd (decodePulse_invHg hlo hhi) rfl
  · exact fun ⟨hlo, hhi⟩ => decodeWord_and_classify hd (decodePulse_bit1 hlo hhi) rfl
  · exact fun hlo => decodeWord_and_classify hd (decodePulse_invHl hlo) rfl

/-- Settles O5: the decoder computes each of the ten words. -/
theorem wordsOfTheSpecDecodeAsListed : Obligations.WordsOfTheSpecDecodeAsListed := by
  unfold Obligations.WordsOfTheSpecDecodeAsListed
  decide

end Sys2Proof

namespace Sys2Proof.Machine

/-! ## DECODE_BCD outside its domain (spec/43_field_decoder.md R141) -/

theorem execDecodeBcd_of_count_outside {n : Nat} (hn : n < 1 ∨ 8 < n) (f : Frame) (start : Nat) (s : State) :
    execDecodeBcd f start n s = .refused (.bcdCountOutOfDomain n) := if_pos hn

theorem execDecodeBcd_of_index_outside {start n : Nat} (hn : 1 ≤ n ∧ n ≤ 8) (hindex : 59 < start + n) (f : Frame)
    (s : State) : execDecodeBcd f start n s = .fault (.noSuchFrameIndex start n) := by
  rw [execDecodeBcd, if_neg (by omega), if_pos hindex]

/-- Settles O22: the count is tested before the index. -/
theorem decodeBcdStopsOutsideItsDomain : Obligations.DecodeBcdStopsOutsideItsDomain :=
  fun f _ _ s => ⟨fun hn => execDecodeBcd_of_count_outside hn f _ s,
    fun ⟨h1, h8, hindex⟩ => execDecodeBcd_of_index_outside ⟨h1, h8⟩ hindex f s⟩

/-! ## A presented table word (spec/30_encoding.md R78, 44_decoder_top.md R173) -/

/-- A table word with an instruction is the packed word of a pulse that selects the instruction. -/
theorem exists_pulse_of_decodeTableWord {nbits word : Nat} {i : Instr} (h : decodeTableWord nbits word = some i) :
    ∃ p, unpackPulse Config.durW (word % 2 ^ nbits) = some p ∧ decodePulse p = i := by
  cases hunpack : unpackPulse Config.durW (word % 2 ^ nbits) with
  | none => simp [decodeTableWord, decodeWord, hunpack] at h
  | some p =>
    rw [decodeTableWord, decodeWord_of_unpackPulse hunpack] at h
    exact ⟨p, rfl, Option.some.inj h⟩

theorem withFetchWord_of_unpackPulse {nbits word : Nat} {p : Pulse}
    (h : unpackPulse Config.durW (word % 2 ^ nbits) = some p) (s : State) :
    s.withFetchWord nbits word = presentNext s (samplePulse p) := by
  rw [State.withFetchWord, sampleWord, h]

theorem takeSample_presentNext (s : State) (q : PortSample) : takeSample (presentNext s q) = s := rfl

/-- Settles O38: the step takes the presented sample and leaves the state it was presented to. -/
theorem presentedTableWordIsRunNext : Obligations.PresentedTableWordIsRunNext := by
  intro s nbits word i h
  obtain ⟨p, hunpack, rfl⟩ := exists_pulse_of_decodeTableWord h
  rw [withFetchWord_of_unpackPulse hunpack, step_of_presented (presented_samplePulse rfl), takeSample_presentNext]

end Sys2Proof.Machine

namespace Sys2Proof.Safety

open Sys2Proof.Machine

/-! ## The items of a pulse stream (spec/30_encoding.md R77) -/

theorem pulseBit_bitPulse (b : Bool) : pulseBit (bitPulse b) = some b := by cases b <;> rfl

theorem map_pulseBit_expandItem_bits (bs : List Bool) : (expandItem (.bits bs)).map pulseBit = bs.map some := by
  rw [expandItem, List.map_map]
  exact List.map_congr_left fun b _ => pulseBit_bitPulse b

/-- Settles O60: the fixed items lie in the windows of their classes, and the bits are read one by one. -/
theorem pseudoItemsExpandToTheirClasses : Obligations.PseudoItemsExpandToTheirClasses :=
  ⟨rfl, rfl, rfl, rfl, rfl, fun bs => ⟨map_pulseBit_expandItem_bits bs, rfl⟩⟩

/-! ## The free positions of a valid frame (spec/30_encoding.md R68, R69) -/

/-- The two frames hold the same bit at each of the 53 free positions. -/
def AgreeFree (f g : Frame) : Prop := ∀ i, i < 59 → fixedPosition i = false → bitAt f i = bitAt g i

/-- The bit a valid frame holds at a fixed position, from its free bits: flag B from flag A, the markers, and each
parity bit from the data bits of its group. -/
def impliedBit (f : Frame) : Nat → Bool
  | 18 => !bitAt f 17
  | 20 => true
  | 28 => xorBits f 21 7
  | 35 => xorBits f 29 6
  | 58 => xorBits f 36 22
  | _ => false

/-- `f` with every fixed position set to the bit its free bits imply. -/
def completion (f : Frame) : Frame :=
  frameOfBits ((List.range 59).map fun i => if fixedPosition i then impliedBit f i else bitAt f i)

theorem bitAt_completion (f : Frame) {i : Nat} (hi : i < 59) :
    bitAt (completion f) i = if fixedPosition i then impliedBit f i else bitAt f i := by
  rw [bitAt, completion, getLsbD_frameOfBits _ hi]
  simp [hi]

theorem agreeFree_completion (f : Frame) : AgreeFree (completion f) f := fun i hi hfree => by
  simp [bitAt_completion f hi, hfree]

theorem not_fixedPosition_between {i : Nat} (h : (21 ≤ i ∧ i < 28) ∨ (29 ≤ i ∧ i < 35) ∨ (36 ≤ i ∧ i < 58)) :
    fixedPosition i = false := by
  simp [fixedPosition]
  omega

/-- No implied bit depends on a fixed position. -/
theorem AgreeFree.impliedBit_eq {f g : Frame} (h : AgreeFree f g) (i : Nat) : impliedBit f i = impliedBit g i := by
  have hflag : bitAt f 17 = bitAt g 17 := h 17 (by decide) rfl
  have hminute : xorBits f 21 7 = xorBits g 21 7 :=
    xorBits_congr fun j _ _ => h j (by omega) (not_fixedPosition_between (by omega))
  have hhour : xorBits f 29 6 = xorBits g 29 6 :=
    xorBits_congr fun j _ _ => h j (by omega) (not_fixedPosition_between (by omega))
  have hdate : xorBits f 36 22 = xorBits g 36 22 :=
    xorBits_congr fun j _ _ => h j (by omega) (not_fixedPosition_between (by omega))
  unfold impliedBit
  split
  · rw [hflag]
  · rfl
  · exact hminute
  · exact hhour
  · exact hdate
  · rfl

/-! Each check compares a fixed position with its implied bit. -/

theorem check1_iff (f : Frame) : check1 f = true ↔ bitAt f 0 = impliedBit f 0 := by
  simp [check1, impliedBit]

theorem check2_iff (f : Frame) : check2 f = true ↔ bitAt f 20 = impliedBit f 20 := Iff.rfl

theorem check3_iff (f : Frame) : check3 f = true ↔ bitAt f 18 = impliedBit f 18 := by
  simp only [check3, impliedBit, Config.idxDstA, Config.idxDstB]
  cases bitAt f 17 <;> simp

/-- A group has even parity exactly when its last bit is the XOR of the others. -/
theorem not_xorBits_succ_iff (f : Frame) (a n : Nat) :
    (!xorBits f a (n + 1)) = true ↔ bitAt f (a + n) = xorBits f a n := by
  rw [xorBits]
  cases xorBits f a n <;> simp

theorem check4_iff (f : Frame) : check4 f = true ↔ bitAt f 28 = impliedBit f 28 := not_xorBits_succ_iff f 21 7

theorem check5_iff (f : Frame) : check5 f = true ↔ bitAt f 35 = impliedBit f 35 := not_xorBits_succ_iff f 29 6

theorem check6_iff (f : Frame) : check6 f = true ↔ bitAt f 58 = impliedBit f 58 := not_xorBits_succ_iff f 36 22

theorem ite_not_false_eq_and (b c : Bool) : (if !b then false else c) = (b && c) := by cases b <;> rfl

theorem validate_eq_and (f : Frame) :
    validate f = (check1 f && check2 f && check3 f && check4 f && check5 f && check6 f) := by
  simp only [validate, ite_not_false_eq_and, Bool.and_true, Bool.and_assoc]

/-- A frame is valid exactly when each fixed position holds the bit that the free bits imply. -/
theorem validate_iff_impliedBit (f : Frame) :
    validate f = true ↔ ∀ i, fixedPosition i = true → bitAt f i = impliedBit f i := by
  simp only [validate_eq_and, Bool.and_eq_true, check1_iff, check2_iff, check3_iff, check4_iff, check5_iff, check6_iff,
    fixedPosition, Bool.or_eq_true, decide_eq_true_eq]
  constructor
  · rintro ⟨⟨⟨⟨⟨h0, h20⟩, h18⟩, h28⟩, h35⟩, h58⟩ i (((((rfl | rfl) | rfl) | rfl) | rfl) | rfl)
    exacts [h0, h18, h20, h28, h35, h58]
  · intro h
    simp [h]

theorem lt_of_fixedPosition {i : Nat} (h : fixedPosition i = true) : i < 59 := by
  simp [fixedPosition] at h
  omega

theorem validate_completion (f : Frame) : validate (completion f) = true :=
  (validate_iff_impliedBit _).mpr fun i hfixed => by
    rw [bitAt_completion f (lt_of_fixedPosition hfixed), if_pos hfixed, (agreeFree_completion f).impliedBit_eq]

/-- Two valid frames with the same free bits are equal. -/
theorem AgreeFree.eq_of_validate {f g : Frame} (h : AgreeFree f g) (hf : validate f = true)
    (hg : validate g = true) : f = g := by
  refine frame_eq_of_bitAt fun i hi => ?_
  cases hfixed : fixedPosition i with
  | false => exact h i hi hfixed
  | true =>
    calc bitAt f i
      _ = impliedBit f i := (validate_iff_impliedBit f).mp hf i hfixed
      _ = impliedBit g i := h.impliedBit_eq i
      _ = bitAt g i := ((validate_iff_impliedBit g).mp hg i hfixed).symm

/-- Settles O20: the completion of the free bits is valid, and a valid frame's fixed bits are implied. -/
theorem fiftyThreeFreeBitsDetermineAValidFrame : Obligations.FiftyThreeFreeBitsDetermineAValidFrame := by
  intro f
  refine ⟨completion f, ⟨validate_completion f, agreeFree_completion f⟩, fun h ⟨hvalid, hfree⟩ => ?_⟩
  have hagree : AgreeFree h (completion f) := fun i hi hi' =>
    (hfree i hi hi').trans (agreeFree_completion f i hi hi').symm
  exact hagree.eq_of_validate hvalid (validate_completion f)

end Sys2Proof.Safety

/-! PROOFS. The pure functions: the windows of CLASSIFY and its comparator view (spec/40_pulse_classifier.md), and the
frame of the four functions that only return a value. -/

namespace Sys2Proof.Machine

/-! ## The window of each symbol (spec/40_pulse_classifier.md R91 to R95) -/

theorem classify_eq_minuteMark_iff (l : Level) (d : Nat) :
    classify l d = .minuteMark ↔ l = .low ∧ 600 ≤ d ∧ d ≤ 1400 := by
  cases l with
  | low => simp [classify_low]
  | high =>
    rw [classify_high]
    split_ifs <;> simp

theorem classify_low_ne_bit (d : Nat) (b : Bool) : classify .low d ≠ .bit b := by
  rw [classify_low]
  split_ifs <;> simp

theorem classify_eq_bit_false_iff (l : Level) (d : Nat) :
    classify l d = .bit false ↔ l = .high ∧ 40 ≤ d ∧ d ≤ 130 := by
  cases l with
  | low => simp [classify_low_ne_bit]
  | high =>
    rw [classify_high]
    split_ifs with h0 <;> simp [h0]

/-- The windows of the two bits do not meet, so that the order of the two tests does not matter. -/
theorem classify_eq_bit_true_iff (l : Level) (d : Nat) :
    classify l d = .bit true ↔ l = .high ∧ 140 ≤ d ∧ d ≤ 250 := by
  cases l with
  | low => simp [classify_low_ne_bit]
  | high =>
    rw [classify_high]
    split_ifs with h0 h1
    · have : ¬ (140 ≤ d ∧ d ≤ 250) := by omega
      simp [this]
    · simp [h1]
    · simp [h1]

theorem symbol_eq_invalid_iff (sym : Symbol) :
    sym = .invalid ↔ ¬ (sym = .minuteMark ∨ sym = .bit false ∨ sym = .bit true) := by
  cases sym with
  | bit b => cases b <;> simp
  | minuteMark => simp
  | invalid => simp

/-- The durations outside the windows: those on either side, and at High also the gap between the two. -/
theorem classify_eq_invalid_iff (l : Level) (d : Nat) :
    classify l d = .invalid ↔ (l = .low ∧ (d < 600 ∨ 1400 < d)) ∨
      (l = .high ∧ (d < 40 ∨ (131 ≤ d ∧ d ≤ 139) ∨ 250 < d)) := by
  rw [symbol_eq_invalid_iff, classify_eq_minuteMark_iff, classify_eq_bit_false_iff, classify_eq_bit_true_iff]
  cases l <;> simp <;> omega

/-- Settles O8: the operation answers its own symbol, which has one window lemma per value. -/
theorem classifyReturnsTheSymbolOfTheWindow : Obligations.ClassifyReturnsTheSymbolOfTheWindow :=
  fun l d _ => ⟨classify l d, rfl, classify_eq_bit_false_iff l d, classify_eq_bit_true_iff l d,
    classify_eq_minuteMark_iff l d, classify_eq_invalid_iff l d⟩

/-! ## The comparator view (spec/40_pulse_classifier.md R96) -/

theorem isMark_iff_classify (l : Level) (d : Nat) : isMark l d = true ↔ classify l d = .minuteMark := by
  simp [classify_eq_minuteMark_iff, isMark, Config.tMarkMin, Config.tMarkMax, and_assoc]

theorem isBit0_iff_classify (l : Level) (d : Nat) : isBit0 l d = true ↔ classify l d = .bit false := by
  simp [classify_eq_bit_false_iff, isBit0, Config.tBit0Min, Config.tBit0Max, and_assoc]

theorem isBit1_iff_classify (l : Level) (d : Nat) : isBit1 l d = true ↔ classify l d = .bit true := by
  simp [classify_eq_bit_true_iff, isBit1, Config.tBit1Min, Config.tBit1Max, and_assoc]

theorem isInvalid_iff_classify (l : Level) (d : Nat) : isInvalid l d = true ↔ classify l d = .invalid := by
  rw [symbol_eq_invalid_iff, ← isMark_iff_classify, ← isBit0_iff_classify, ← isBit1_iff_classify]
  simp [isInvalid, and_assoc]

/-- Two terms that stand for different values of one symbol are never both 1. -/
theorem and_eq_false_of_iff_symbol {p q : Bool} {sym a b : Symbol} (hp : p = true ↔ sym = a)
    (hq : q = true ↔ sym = b) (hab : a ≠ b) : (p && q) = false := by
  refine Bool.eq_false_iff.mpr fun h => hab ?_
  obtain ⟨hp', hq'⟩ := Bool.and_eq_true_iff.mp h
  exact (hp.mp hp').symm.trans (hq.mp hq')

/-- Settles O9: each term stands for one symbol, and CLASSIFY answers one symbol only. -/
theorem comparatorViewAgreesWithClassify : Obligations.ComparatorViewAgreesWithClassify := by
  intro l d
  have hmark := isMark_iff_classify l d
  have hbit0 := isBit0_iff_classify l d
  have hbit1 := isBit1_iff_classify l d
  exact ⟨hmark, hbit0, hbit1, isInvalid_iff_classify l d, and_eq_false_of_iff_symbol hmark hbit0 (by decide),
    and_eq_false_of_iff_symbol hmark hbit1 (by decide), and_eq_false_of_iff_symbol hbit0 hbit1 (by decide)⟩

/-! ## Functions that only return a value (R90, 42_frame_validator.md R120, 43_field_decoder.md R140) -/

theorem execDecodeBcd_of_inside {start n : Nat} (hn : 1 ≤ n ∧ n ≤ 8) (hindex : start + n ≤ 59) (f : Frame)
    (s : State) : execDecodeBcd f start n s = .next (s.setValue (some (.sum (bcd f start n)))) := by
  rw [execDecodeBcd, if_neg (by omega), if_neg (by omega)]

/-- Outside its domain DECODE_BCD has no next state. -/
theorem domain_of_execDecodeBcd_eq_next {f : Frame} {start n : Nat} {s t : State}
    (h : execDecodeBcd f start n s = .next t) : (1 ≤ n ∧ n ≤ 8) ∧ start + n ≤ 59 := by
  by_cases hn : n < 1 ∨ 8 < n
  · rw [execDecodeBcd_of_count_outside hn] at h
    cases h
  have hn' : 1 ≤ n ∧ n ≤ 8 := by omega
  by_cases hindex : 59 < start + n
  · rw [execDecodeBcd_of_index_outside hn' hindex] at h
    cases h
  · exact ⟨hn', by omega⟩

/-- A pure function that completes has written its returned value and nothing else. -/
theorem exists_setValue_of_exec_pure {i : Instr} {l : Level} {f : Frame} {d n : Nat} {s t : State}
    (hi : i = .classify l d ∨ i = .validate f ∨ i = .decodeBcd f d n ∨ i = .decode f) (h : exec i s = .next t) :
    ∃ v, t = s.setValue v := by
  obtain rfl | rfl | rfl | rfl := hi
  case inr.inr.inl =>
    obtain ⟨hn, hindex⟩ := domain_of_execDecodeBcd_eq_next h
    have heq := execDecodeBcd_of_inside hn hindex f s
    exact ⟨_, Host.Outcome.next.inj (h.symm.trans heq)⟩
  all_goals exact ⟨_, (Host.Outcome.next.inj h).symm⟩

/-- Settles O56: writing the returned value leaves every other field. -/
theorem pureFunctionsChangeNoState : Obligations.PureFunctionsChangeNoState := by
  intro i l f d n s t hi h
  obtain ⟨v, rfl⟩ := exists_setValue_of_exec_pure hi h
  simp

end Sys2Proof.Machine

/-! PROOFS. The frame accumulator (spec/41_frame_accumulator.md): PUSH executed on its own, the closed frame, and the
shift-register form. -/

namespace Sys2Proof.Machine

/-! ## PUSH in each of its five cases (R99) -/

/-- What PUSH executed on its own leaves: the accumulator's state `t`, and the returned frame in `value`. -/
theorem exec_push_of_push_eq {sym : Symbol} {s t : State} {o : Option Frame} (h : push sym s = (t, o)) :
    exec (.push sym) s = .next (t.setValue (some (.frame o))) := by
  rw [show exec (.push sym) s = execPush sym s from rfl, execPush, h]

theorem push_invalid (s : State) : push .invalid s = (raise .invalidPulse 0 s, none) := rfl

theorem push_minuteMark_of_closed {s : State} (h : s.length = 59) :
    push .minuteMark s = (s.setLength 0, some s.buf) := if_pos h

theorem push_minuteMark_of_not_closed {s : State} (h : s.length ≠ 59) :
    push .minuteMark s = (raise .resync 0 s, none) := if_neg h

theorem push_bit_of_lt (b : Bool) {s : State} (h : s.length.val < 59) :
    push (.bit b) s = (appendBit b s h, none) := by
  rw [push, pushBit_append b s h]

theorem push_bit_of_closed (b : Bool) {s : State} (h : s.length = 59) :
    push (.bit b) s = (raise .overflow 0 s, none) := by
  rw [push, pushBit_overflow b s (by simp [h])]

/-- Settles O10: PUSH raises the error kind, whatever `length` is. -/
theorem pushOnInvalidDropsTheFrame : Obligations.PushOnInvalidDropsTheFrame :=
  fun s => ⟨_, exec_push_of_push_eq (push_invalid s), by simp⟩

/-- Settles O11: PUSH resynchronises, which leaves the cells. -/
theorem pushOnPrematureMarkResynchronises : Obligations.PushOnPrematureMarkResynchronises :=
  fun _ hopen => ⟨_, exec_push_of_push_eq (push_minuteMark_of_not_closed hopen), by simp⟩

/-- Settles O14: at 59 there is no append, only the error kind. -/
theorem pushOnBitOverflowsAtFiftyNine : Obligations.PushOnBitOverflowsAtFiftyNine :=
  fun b _ h59 => ⟨_, exec_push_of_push_eq (push_bit_of_closed b h59), by simp⟩

/-- Settles O13, by what the append writes into the cells. -/
theorem pushOnBitAppendsAtLength : Obligations.PushOnBitAppendsAtLength := by
  intro b s hlt
  have hcell (j : Nat) : bitAt (appendBit b s hlt).buf j = if j = s.length.val then b else bitAt s.buf j :=
    bitAt_setBit s.buf s.length.val j b hlt
  exact ⟨_, exec_push_of_push_eq (push_bit_of_lt b hlt), (hcell _).trans (if_pos rfl),
    fun j hj => (hcell j).trans (if_neg hj), rfl, rfl, rfl, rfl, rfl⟩

/-! ## When PUSH returns a frame (R102) -/

theorem closing_mark_of_push_returns {sym : Symbol} {s : State} {f : Frame} (h : (push sym s).2 = some f) :
    sym = .minuteMark ∧ s.length = 59 := by
  cases sym with
  | invalid => cases h
  | bit b => cases h
  | minuteMark =>
    refine ⟨rfl, by_contra fun hopen => ?_⟩
    rw [push_minuteMark_of_not_closed hopen] at h
    cases h

/-- Settles O12: on a closing mark the frame emitted is `buf` itself, and PUSH returns none in its other cases. -/
theorem pushOnClosingMarkEmitsTheFrame : Obligations.PushOnClosingMarkEmitsTheFrame := by
  refine ⟨fun s h59 => ⟨_, s.buf, exec_push_of_push_eq (push_minuteMark_of_closed h59), rfl, rfl, rfl,
    fun _ _ => rfl⟩, fun sym s t f ht hf => closing_mark_of_push_returns (f := f) ?_⟩
  cases ht
  simpa using hf

/-! ## The frame of PUSH (R99, "State written") -/

/-- A symbol that is no bit writes no cell. -/
theorem keepsCells_push {sym : Symbol} (hsym : sym = .minuteMark ∨ sym = .invalid) (s : State) :
    KeepsCells s (push sym s).1 := by
  obtain rfl | rfl := hsym
  · by_cases h59 : s.length = 59
    · rw [push_minuteMark_of_closed h59]
      exact ⟨rfl, rfl, rfl⟩
    · rw [push_minuteMark_of_not_closed h59]
      exact keepsCells_raise .resync 0 s
  · exact keepsCells_raise .invalidPulse 0 s

theorem storesOnlyAtLength_push (sym : Symbol) (s : State) : StoresOnlyAtLength s (push sym s).1 := by
  cases sym with
  | bit b => exact storesOnlyAtLength_pushBit b s
  | minuteMark => exact (keepsCells_push (.inl rfl) s).storesOnlyAtLength
  | invalid => exact (keepsCells_push (.inr rfl) s).storesOnlyAtLength

/-- Settles O15, by the frame of the accumulator; a closing mark writes `length` alone. -/
theorem pushLeavesTheRestUnchanged : Obligations.PushLeavesTheRestUnchanged := by
  intro sym s t ht
  have hframe := storesOnlyAtLength_push sym s
  cases ht
  refine ⟨hframe.input, hframe.otherCells, ?_, ?_⟩
  · rintro (h59 | hsym)
    · exact hframe.closed h59
    · exact (keepsCells_push hsym s).buf
  · rintro ⟨h59, rfl⟩
    rw [push_minuteMark_of_closed h59]
    exact ⟨rfl, rfl, rfl⟩

/-! ## One step from a closed frame (R107) -/

theorem controlOf_eq_frameClosed_iff (s : State) : controlOf s = .frameClosed ↔ s.length = 59 := by
  unfold controlOf
  split_ifs with h59 <;> simp [h59]

theorem controlOf_of_length_zero {s : State} (h : s.length = 0) : controlOf s = .accumulating 0 := by
  simp [controlOf, h]

theorem pushBit_result (b : Bool) (s : State) : (pushBit b s).result = none := by
  unfold pushBit
  split <;> rfl

/-- No pulse but a minute mark makes a step return a time. -/
theorem mark_of_pushImpulse_result_isSome {l : Level} {d : Nat} {s : State}
    (h : (pushImpulse l d s).result.isSome = true) : d ≠ 0 ∧ classify l d = .minuteMark := by
  have hd : d ≠ 0 := by
    rintro rfl
    simp [pushImpulse_zero] at h
  refine ⟨hd, ?_⟩
  cases hc : classify l d with
  | minuteMark => rfl
  | bit b => simp [pushImpulse_of_bit hc, pushBit_result] at h
  | invalid => simp [pushImpulse_of_invalid hd hc] at h

/-- Settles O50: at 59 no pulse can advance `length`, so each leaves it at 0. -/
theorem aClosedFrameSurvivesOneStep : Obligations.AClosedFrameSurvivesOneStep := by
  intro l d s hclosed
  have h59 : s.length = 59 := (controlOf_eq_frameClosed_iff s).mp hclosed
  have hzero : (pushImpulse l d s).length = 0 :=
    Fin.ext ((Safety.pushImpulse_length l d s).trans (if_neg (by simp [h59])))
  exact ⟨pushImpulse l d s, rfl, controlOf_of_length_zero hzero, mark_of_pushImpulse_result_isSome⟩

/-! ## The shift-register form (R110) -/

/-- A shift moves every bit one place down and puts the new bit at the top. -/
theorem bitAt_shiftIn (r : Frame) (b : Bool) (j : Nat) :
    bitAt (shiftIn r b) j = if j = 58 then b else bitAt r (j + 1) := by
  rw [shiftIn, bitAt_setBit _ _ _ _ (by decide)]
  simp [bitAt, Nat.add_comm]

/-- The top `length` bits of the register are the cells below `length`, in order. -/
def HoldsAtTop (r : Frame) (s : State) : Prop :=
  ∀ i, i < s.length.val → bitAt r (59 - s.length.val + i) = bitAt s.buf i

theorem holdsAtTop_of_length_zero (r : Frame) {s : State} (h : s.length = 0) : HoldsAtTop r s :=
  fun i hi => absurd hi (by simp [h])

/-- In a closed frame every bit of the register is a cell. -/
theorem HoldsAtTop.eq_buf_of_closed {r : Frame} {s : State} (h : HoldsAtTop r s) (h59 : s.length = 59) :
    s.buf = r :=
  frame_eq_of_bitAt fun i hi => by simpa [h59] using (h i (by simpa [h59] using hi)).symm

/-- One shift and one indexed write take the same bit: it comes last in both. -/
theorem HoldsAtTop.shiftIn {r : Frame} {s : State} (h : HoldsAtTop r s) (b : Bool) (hlt : s.length.val < 59) :
    HoldsAtTop (shiftIn r b) (appendBit b s hlt) := by
  intro i hi
  rw [appendBit_length] at hi ⊢
  rw [bitAt_shiftIn, appendBit_buf, bitAt_setBit _ _ _ _ hlt]
  by_cases hlast : i = s.length.val
  · rw [if_pos hlast, if_pos (by omega)]
  · rw [if_neg hlast, if_neg (by omega), ← h i (by omega)]
    congr 1
    omega

/-- The two designs run side by side, as long as there is room for the bits. -/
theorem HoldsAtTop.foldl (bits : List Bool) {r : Frame} {s : State} (h : HoldsAtTop r s)
    (hroom : s.length.val + bits.length ≤ 59) :
    (bits.foldl (fun t b => pushBit b t) s).length.val = s.length.val + bits.length ∧
      HoldsAtTop (bits.foldl Machine.shiftIn r) (bits.foldl (fun t b => pushBit b t) s) := by
  induction bits generalizing r s with
  | nil => exact ⟨rfl, h⟩
  | cons b bits ih =>
    rw [List.length_cons] at hroom ⊢
    have hlt : s.length.val < 59 := by omega
    rw [List.foldl_cons, List.foldl_cons, pushBit_append b s hlt]
    obtain ⟨hlength, hholds⟩ := ih (h.shiftIn b hlt) (by rw [appendBit_length]; omega)
    rw [appendBit_length] at hlength
    exact ⟨by omega, hholds⟩

/-- Settles O52, by the simulation `HoldsAtTop`, which is empty at `length` 0 and is equality at 59. -/
theorem shiftRegisterGivesTheSameFrame : Obligations.ShiftRegisterGivesTheSameFrame := by
  intro bits s r hbits h0
  obtain ⟨hlength, hholds⟩ := (holdsAtTop_of_length_zero r h0).foldl bits (by simp [h0, hbits])
  have h59 : (bits.foldl (fun t b => pushBit b t) s).length = 59 := Fin.ext (by simp [hlength, h0, hbits])
  exact ⟨h59, hholds.eq_buf_of_closed h59⟩

end Sys2Proof.Machine

/-! PROOFS. The frame validator (spec/42_frame_validator.md): the six checks and their order, what flipped bits change
(R130), and the frame that carries a calendar time (R129, 30_encoding.md R68, 43_field_decoder.md R152). -/

namespace Sys2Proof.Safety

open Sys2Proof.Machine

/-! ## The bits of a list at a position of a frame -/

/-- From position `a` on, the frame holds the bits of the list in order. -/
def HoldsAt (f : Frame) (a : Nat) (bits : List Bool) : Prop :=
  ∀ i, i < bits.length → bitAt f (a + i) = bits.getD i false

theorem holdsAt_frameOfBits {bits : List Bool} (h : bits.length ≤ 59) : HoldsAt (frameOfBits bits) 0 bits :=
  fun i hi => by rw [Nat.zero_add, bitAt, getLsbD_frameOfBits bits (by omega)]

@[simp] theorem holdsAt_nil (f : Frame) (a : Nat) : HoldsAt f a [] := fun _ hi => absurd hi (Nat.not_lt_zero _)

@[simp] theorem holdsAt_cons {f : Frame} {a : Nat} {b : Bool} {bits : List Bool} :
    HoldsAt f a (b :: bits) ↔ bitAt f a = b ∧ HoldsAt f (a + 1) bits := by
  constructor
  · intro h
    refine ⟨h 0 (by simp), fun i hi => ?_⟩
    have hsucc := h (i + 1) (by simpa using hi)
    rwa [show a + (i + 1) = a + 1 + i by omega] at hsucc
  · rintro ⟨hhead, htail⟩ (_ | i) hi
    · exact hhead
    · rw [show a + (i + 1) = a + 1 + i by omega]
      exact htail i (by simpa using hi)

@[simp] theorem holdsAt_append {f : Frame} {a : Nat} {xs ys : List Bool} :
    HoldsAt f a (xs ++ ys) ↔ HoldsAt f a xs ∧ HoldsAt f (a + xs.length) ys := by
  induction xs generalizing a with
  | nil => simp
  | cons x xs ih => simp [ih, and_assoc, show a + 1 + xs.length = a + (xs.length + 1) by omega]

/-! ## The parity of the bits held -/

theorem xorBits_succ_left (f : Frame) (a n : Nat) : xorBits f a (n + 1) = (bitAt f a ^^ xorBits f (a + 1) n) := by
  induction n with
  | zero => simp [xorBits]
  | succ n ih =>
    rw [xorBits, ih, xorBits, Bool.xor_assoc, show a + (n + 1) = a + 1 + n by omega]

theorem HoldsAt.xorBits_eq {f : Frame} {a : Nat} {bits : List Bool} (h : HoldsAt f a bits) :
    xorBits f a bits.length = parityOf bits := by
  induction bits generalizing a with
  | nil => rfl
  | cons b bits ih =>
    obtain ⟨hhead, htail⟩ := holdsAt_cons.mp h
    rw [List.length_cons, xorBits_succ_left, hhead, ih htail, parityOf]

/-! ## The weighted layout (spec/43_field_decoder.md R152, R155) -/

@[simp] theorem length_binaryDigits (n v : Nat) : (binaryDigits n v).length = n := by
  induction n generalizing v with
  | zero => rfl
  | succ n ih => rw [binaryDigits, List.length_cons, ih]

@[simp] theorem length_bcdDigits (n v : Nat) : (bcdDigits n v).length = n := by
  simp only [bcdDigits, List.length_append, length_binaryDigits]
  omega

theorem plainBinary_succ (f : Frame) (a n : Nat) :
    plainBinary f a (n + 1) = plainBinary f a n + (bitAt f (a + n)).toNat * 2 ^ n := rfl

theorem plainBinary_succ_left (f : Frame) (a n : Nat) :
    plainBinary f a (n + 1) = (bitAt f a).toNat + 2 * plainBinary f (a + 1) n := by
  induction n with
  | zero => simp [plainBinary]
  | succ n ih =>
    rw [plainBinary, ih, plainBinary, show a + (n + 1) = a + 1 + n by omega]
    ring

/-- Binary digits are read back, but for what they cannot hold. -/
theorem HoldsAt.plainBinary_eq {f : Frame} {a n v : Nat} (h : HoldsAt f a (binaryDigits n v)) :
    plainBinary f a n = v % 2 ^ n := by
  induction n generalizing a v with
  | zero => rw [plainBinary, pow_zero, Nat.mod_one]
  | succ n ih =>
    obtain ⟨hhead, htail⟩ := holdsAt_cons.mp h
    have hbit : (bitAt f a).toNat = v % 2 := by
      rw [hhead]
      obtain h2 | h2 := Nat.mod_two_eq_zero_or_one v <;> simp [h2]
    rw [plainBinary_succ_left, hbit, ih htail, pow_succ', Nat.mod_mul]

/-- The first four weights are those of a binary digit. -/
theorem bcd_eq_plainBinary (f : Frame) (a : Nat) {n : Nat} (hn : n ≤ 4) : bcd f a n = plainBinary f a n := by
  have hweight : ∀ i < 4, bcdWeight i = 2 ^ i := by decide
  induction n with
  | zero => rfl
  | succ n ih => rw [bcd, plainBinary, ih (by omega), hweight n (by omega)]

/-- The other four weights are ten times those of a binary digit. -/
theorem bcd_four_add (f : Frame) (a : Nat) {m : Nat} (hm : m ≤ 4) :
    bcd f a (4 + m) = plainBinary f a 4 + 10 * plainBinary f (a + 4) m := by
  have hweight : ∀ i < 4, bcdWeight (4 + i) = 10 * 2 ^ i := by decide
  induction m with
  | zero => exact bcd_eq_plainBinary f a le_rfl
  | succ m ih =>
    rw [← Nat.add_assoc, bcd, ih (by omega), hweight m (by omega), plainBinary_succ f (a + 4) m, Nat.add_assoc a 4 m]
    ring

theorem bcd_eq_ones_add_tens (f : Frame) (a : Nat) {n : Nat} (hn : n ≤ 8) :
    bcd f a n = plainBinary f a (min n 4) + 10 * plainBinary f (a + 4) (n - 4) := by
  obtain h4 | h4 := Nat.le_total n 4
  · rw [min_eq_left h4, Nat.sub_eq_zero_of_le h4, bcd_eq_plainBinary f a h4, plainBinary, Nat.mul_zero, Nat.add_zero]
  · obtain ⟨m, rfl⟩ := Nat.exists_eq_add_of_le h4
    rw [min_eq_right h4, Nat.add_sub_cancel_left, bcd_four_add f a (by omega)]

/-- The two decimal digits of `v` fit the `n` positions of a field. -/
def FitsField (n v : Nat) : Prop := n ≤ 8 ∧ v % 10 < 2 ^ min n 4 ∧ v / 10 < 2 ^ (n - 4)

/-- From four positions on, the ones digit always fits and the tens digit has the rest. -/
theorem fitsField_of_four_le {n v : Nat} (h4 : 4 ≤ n) (hn : n ≤ 8) (hv : v < 10 * 2 ^ (n - 4)) : FitsField n v :=
  ⟨hn, by rw [min_eq_right h4]; omega, Nat.div_lt_of_lt_mul hv⟩

/-- Below four positions there is no tens digit. -/
theorem fitsField_of_le_three {n v : Nat} (h3 : n ≤ 3) (hv : v < 2 ^ n) : FitsField n v := by
  have h8 : 2 ^ n ≤ 2 ^ 3 := Nat.pow_le_pow_right (by decide) h3
  refine ⟨by omega, ?_, ?_⟩
  · rw [min_eq_left (by omega)]
    omega
  · rw [Nat.sub_eq_zero_of_le (by omega)]
    omega

/-- A value in the weighted layout is read back unchanged (R152). -/
theorem HoldsAt.bcd_eq {f : Frame} {a n v : Nat} (h : HoldsAt f a (bcdDigits n v)) (hfits : FitsField n v) :
    bcd f a n = v := by
  obtain ⟨hn, hones, htens⟩ := hfits
  obtain ⟨hlow, hhigh⟩ := holdsAt_append.mp h
  have htens_eq : plainBinary f (a + 4) (n - 4) = v / 10 := by
    obtain h4 | h4 := Nat.le_total n 4
    · rw [Nat.sub_eq_zero_of_le h4] at htens ⊢
      exact (Nat.lt_one_iff.mp htens).symm
    · rw [length_binaryDigits, min_eq_right h4] at hhigh
      rw [hhigh.plainBinary_eq, Nat.mod_eq_of_lt htens]
  rw [bcd_eq_ones_add_tens f a hn, hlow.plainBinary_eq, Nat.mod_eq_of_lt hones, htens_eq, Nat.mod_add_div]

/-- A field's width in the result record holds its value. -/
theorem HoldsAt.toNat_field_eq {f : Frame} {a n v w : Nat} (h : HoldsAt f a (bcdDigits n v)) (hfits : FitsField n v)
    (hv : v < 2 ^ w) : (BitVec.ofNat w (bcd f a n)).toNat = v := by
  rw [h.bcd_eq hfits, BitVec.toNat_ofNat, Nat.mod_eq_of_lt hv]

/-! ## The frame of a calendar time (spec/30_encoding.md R68) -/

/-- Where the examined bits of a calendar time stand in its frame. -/
structure HoldsCalendar (f : Frame) (c : CalendarFields) : Prop where
  start : bitAt f 0 = false
  dstA : bitAt f 17 = c.isDst
  dstB : bitAt f 18 = !c.isDst
  timeStart : bitAt f 20 = true
  minute : HoldsAt f 21 (bcdDigits 7 c.minute)
  minuteParity : bitAt f 28 = parityOf (bcdDigits 7 c.minute)
  hour : HoldsAt f 29 (bcdDigits 6 c.hour)
  hourParity : bitAt f 35 = parityOf (bcdDigits 6 c.hour)
  date : HoldsAt f 36 c.dateBits
  dateParity : bitAt f 58 = parityOf c.dateBits

theorem length_dateBits (c : CalendarFields) : c.dateBits.length = 22 := by simp [CalendarFields.dateBits]

theorem holdsCalendar_encodeFrame (c : CalendarFields) : HoldsCalendar (encodeFrame c) c := by
  have hbits : HoldsAt (encodeFrame c) 0 c.bits :=
    holdsAt_frameOfBits (by simp [CalendarFields.bits, length_dateBits])
  simp only [CalendarFields.bits, List.cons_append, List.nil_append, List.append_assoc, holdsAt_cons, zero_add,
    holdsAt_append, length_binaryDigits, Nat.reduceAdd, length_bcdDigits, length_dateBits, holdsAt_nil,
    and_true] at hbits
  obtain ⟨hstart, _, hdstA, hdstB, _, htimeStart, hminute, hminuteParity, hhour, hhourParity, hdate, hdateParity⟩ :=
    hbits
  exact ⟨hstart, hdstA, hdstB, htimeStart, hminute, hminuteParity, hhour, hhourParity, hdate, hdateParity⟩

theorem HoldsCalendar.dateFields {f : Frame} {c : CalendarFields} (h : HoldsCalendar f c) :
    HoldsAt f 36 (bcdDigits 6 c.dayOfMonth) ∧ HoldsAt f 42 (bcdDigits 3 c.weekday) ∧
      HoldsAt f 45 (bcdDigits 5 c.month) ∧ HoldsAt f 50 (bcdDigits 8 c.yearOffset) := by
  have hdate := h.date
  rw [CalendarFields.dateBits] at hdate
  simpa [and_assoc] using hdate

/-- Each parity bit is the XOR of the data bits its group holds (42_frame_validator.md R128). -/
theorem HoldsCalendar.validate_eq {f : Frame} {c : CalendarFields} (h : HoldsCalendar f c) : validate f = true := by
  have hminute : xorBits f 21 7 = bitAt f 28 := by simpa [h.minuteParity] using h.minute.xorBits_eq
  have hhour : xorBits f 29 6 = bitAt f 35 := by simpa [h.hourParity] using h.hour.xorBits_eq
  have hdate : xorBits f 36 22 = bitAt f 58 := by simpa [h.dateParity, length_dateBits] using h.date.xorBits_eq
  simp [validate_eq_and, check1_iff, check2_iff, check3_iff, check4_iff, check5_iff, check6_iff, impliedBit, h.start,
    h.dstA, h.dstB, h.timeStart, hminute, hhour, hdate]

theorem calendar_wellFormed_iff (c : CalendarFields) : c.wellFormed = true ↔
    c.minute ≤ 59 ∧ c.hour ≤ 23 ∧ (1 ≤ c.dayOfMonth ∧ c.dayOfMonth ≤ 31) ∧ (1 ≤ c.weekday ∧ c.weekday ≤ 7) ∧
      (1 ≤ c.month ∧ c.month ≤ 12) ∧ c.yearOffset ≤ 99 := by
  simp [CalendarFields.wellFormed, within_eq_true, and_assoc]

/-- Settles O28: the frame holds each field in the weighted layout and each parity bit after its group. -/
theorem transmittedCalendarTimesDecodeToThemselves : Obligations.TransmittedCalendarTimesDecodeToThemselves := by
  intro c hc
  obtain ⟨hminute, hhour, ⟨_, hday⟩, ⟨_, hweekday⟩, ⟨_, hmonth⟩, hyear⟩ := (calendar_wellFormed_iff c).mp hc
  have hf := holdsCalendar_encodeFrame c
  obtain ⟨dayAt, weekdayAt, monthAt, yearAt⟩ := hf.dateFields
  exact ⟨hf.validate_eq, rfl,
    hf.minute.toNat_field_eq (fitsField_of_four_le (by decide) (by decide) (by omega)) (by omega),
    hf.hour.toNat_field_eq (fitsField_of_four_le (by decide) (by decide) (by omega)) (by omega),
    dayAt.toNat_field_eq (fitsField_of_four_le (by decide) (by decide) (by omega)) (by omega),
    weekdayAt.toNat_field_eq (fitsField_of_le_three (by decide) (by omega)) (by omega),
    monthAt.toNat_field_eq (fitsField_of_four_le (by decide) (by decide) (by omega)) (by omega),
    yearAt.toNat_field_eq (fitsField_of_four_le (by decide) (by decide) (by omega)) (by omega), hf.dstA⟩

/-! ## The six checks on the bits they read (spec/42_frame_validator.md R121 to R128) -/

theorem check1_eq (f : Frame) : check1 f = !bitAt f 0 := rfl

theorem check2_eq (f : Frame) : check2 f = bitAt f 20 := rfl

theorem check3_eq (f : Frame) : check3 f = decide (bitAt f 17 ≠ bitAt f 18) := by
  cases h : bitAt f 17 <;> simp [check3, h]

/-- The XOR of a group is 0 exactly when the number of its 1-bits is even. -/
theorem not_xorBits_eq (f : Frame) (a n : Nat) : (!xorBits f a n) = decide (onesIn f a (a + n) % 2 = 0) := by
  simp only [xorBits_eq_onesIn, ← decide_not, Nat.mod_two_ne_one]

theorem check4_eq (f : Frame) : check4 f = decide (onesIn f 21 29 % 2 = 0) := not_xorBits_eq f 21 8

theorem check5_eq (f : Frame) : check5 f = decide (onesIn f 29 36 % 2 = 0) := not_xorBits_eq f 29 7

theorem check6_eq (f : Frame) : check6 f = decide (onesIn f 36 59 % 2 = 0) := not_xorBits_eq f 36 23

theorem validate_iff_bits (f : Frame) : validate f = true ↔
    bitAt f 0 = false ∧ bitAt f 20 = true ∧ bitAt f 17 ≠ bitAt f 18 ∧
      onesIn f 21 29 % 2 = 0 ∧ onesIn f 29 36 % 2 = 0 ∧ onesIn f 36 59 % 2 = 0 := by
  simp only [validate_eq_and, Bool.and_eq_true, and_assoc, check1_eq, check2_eq, check3_eq, check4_eq, check5_eq,
    check6_eq, Bool.not_eq_true', decide_eq_true_eq]

/-- Settles O16: the verdict returned is that of the six checks. -/
theorem validateIsMarkersFlagsAndEvenParity : Obligations.ValidateIsMarkersFlagsAndEvenParity :=
  fun f _ => ⟨validate f, rfl, validate_iff_bits f⟩

/-- The condition reported fails and all before it hold, or all six hold. -/
theorem firstFailingCheck_cases (f : Frame) :
    (firstFailingCheck f = 1 ∧ bitAt f 0 = true) ∨
    (firstFailingCheck f = 2 ∧ bitAt f 0 = false ∧ bitAt f 20 = false) ∨
    (firstFailingCheck f = 3 ∧ bitAt f 0 = false ∧ bitAt f 20 = true ∧ bitAt f 17 = bitAt f 18) ∨
    (bitAt f 0 = false ∧ bitAt f 20 = true ∧ bitAt f 17 ≠ bitAt f 18 ∧
      (firstFailingCheck f = 4 ∧ onesIn f 21 29 % 2 = 1 ∨
        firstFailingCheck f = 5 ∧ onesIn f 21 29 % 2 = 0 ∧ onesIn f 29 36 % 2 = 1 ∨
        firstFailingCheck f = 6 ∧ onesIn f 21 29 % 2 = 0 ∧ onesIn f 29 36 % 2 = 0 ∧ onesIn f 36 59 % 2 = 1 ∨
        firstFailingCheck f = 0)) := by
  simp only [firstFailingCheck, check1_eq, check2_eq, check3_eq, check4_eq, check5_eq, check6_eq]
  split_ifs <;> simp_all

/-- Settles O17: each number is reported in one case of the order only. -/
theorem firstFailingCheckFollowsTheOrder : Obligations.FirstFailingCheckFollowsTheOrder := by
  intro f
  rw [← Bool.not_eq_true (validate f), ← firstFailingCheck_eq_zero]
  obtain ⟨e, h⟩ | ⟨e, h0, h20⟩ | ⟨e, h0, h20, hflags⟩ |
    ⟨h0, h20, hflags, ⟨e, h⟩ | ⟨e, h, h'⟩ | ⟨e, h, h', h''⟩ | e⟩ := firstFailingCheck_cases f
  all_goals simp [*]

/-! ## Flipped bits (spec/42_frame_validator.md R130) -/

/-- The six checks in order, each as the range whose bits it reads and the XOR it asks them to have. -/
def checkParities : List (Config.Range × Bool) :=
  [(⟨0, 1⟩, false), (⟨20, 21⟩, true), (⟨17, 19⟩, true), (⟨21, 29⟩, false), (⟨29, 36⟩, false), (⟨36, 59⟩, false)]

theorem validate_iff_checkParities (f : Frame) :
    validate f = true ↔ ∀ p ∈ checkParities, xorRange f p.1 = p.2 := by
  have hstart : xorRange f ⟨0, 1⟩ = bitAt f 0 := by simp [xorRange, xorBits]
  have htimeStart : xorRange f ⟨20, 21⟩ = bitAt f 20 := by simp [xorRange, xorBits]
  have hflags : xorRange f ⟨17, 19⟩ = (bitAt f 17 ^^ bitAt f 18) := by simp [xorRange, xorBits]
  simp [checkParities, hstart, htimeStart, hflags, validate_eq_and, check1, check2, check3, check4, check5, check6,
    and_assoc]

/-- The range includes the position. -/
def inRange (r : Config.Range) (i : Nat) : Bool := decide (r.first ≤ i ∧ i < r.stop)

theorem bitAt_flipBit_eq_xor (f : Frame) {i : Nat} (hi : i < 59) (j : Nat) :
    bitAt (flipBit f i) j = (bitAt f j ^^ decide (i = j)) := by
  rw [bitAt_flipBit f i j hi]
  by_cases h : j = i
  · simp [h]
  · simp [h, Ne.symm h]

theorem xorBits_flipBit (f : Frame) {i : Nat} (hi : i < 59) (a n : Nat) :
    xorBits (flipBit f i) a n = (xorBits f a n ^^ decide (a ≤ i ∧ i < a + n)) := by
  induction n with
  | zero => simp [xorBits]
  | succ n ih =>
    have hrange : decide (a ≤ i ∧ i < a + (n + 1)) = (decide (a ≤ i ∧ i < a + n) ^^ decide (i = a + n)) := by
      by_cases h : i = a + n
      · simp [h]
      · simp [h, show i < a + (n + 1) ↔ i < a + n by omega]
    rw [xorBits, xorBits, ih, bitAt_flipBit_eq_xor f hi, hrange]
    simp only [Bool.xor_assoc, Bool.xor_left_comm]

/-- A flipped bit inverts the XOR of the ranges that include it. -/
theorem xorRange_flipBit (f : Frame) {i : Nat} (hi : i < 59) (r : Config.Range) :
    xorRange (flipBit f i) r = (xorRange f r ^^ inRange r i) := by
  have hrange : (r.first ≤ i ∧ i < r.first + (r.stop - r.first)) ↔ (r.first ≤ i ∧ i < r.stop) := by omega
  simp only [xorRange, xorBits_flipBit f hi, inRange, hrange]

theorem unexamined_iff_no_check_reads {i : Nat} (hi : i < 59) :
    unexamined i = true ↔ ∀ p ∈ checkParities, inRange p.1 i = false := by
  revert i
  decide

/-- A flipped bit leaves a valid frame valid exactly when no check reads it. -/
theorem validate_flipBit {f : Frame} (h : validate f = true) {i : Nat} (hi : i < 59) :
    validate (flipBit f i) = unexamined i := by
  rw [Bool.eq_iff_iff, validate_iff_checkParities, unexamined_iff_no_check_reads hi]
  refine forall₂_congr fun p hp => ?_
  rw [xorRange_flipBit f hi, (validate_iff_checkParities f).mp h p hp]
  cases inRange p.1 i <;> simp

/-- Two flipped bits that every check reads both of or neither cancel. -/
theorem validate_flipBit_flipBit (f : Frame) {i j : Nat} (hi : i < 59) (hj : j < 59)
    (hsame : ∀ p ∈ checkParities, inRange p.1 i = inRange p.1 j) :
    validate (flipBit (flipBit f i) j) = validate f := by
  rw [Bool.eq_iff_iff, validate_iff_checkParities, validate_iff_checkParities]
  refine forall₂_congr fun p hp => ?_
  rw [xorRange_flipBit _ hj, xorRange_flipBit f hi, hsame p hp, Bool.xor_assoc, Bool.xor_self, Bool.xor_false]

theorem sameGroup_iff {i j : Nat} : sameGroup i j = true ↔
    (21 ≤ i ∧ i ≤ 28 ∧ 21 ≤ j ∧ j ≤ 28) ∨ (29 ≤ i ∧ i ≤ 35 ∧ 29 ≤ j ∧ j ≤ 35) ∨
      (36 ≤ i ∧ i ≤ 58 ∧ 36 ≤ j ∧ j ≤ 58) := by
  simp [sameGroup, within_eq_true, and_assoc, or_assoc]

theorem inRange_eq_of_sameGroup {i j : Nat} (h : sameGroup i j = true) :
    ∀ p ∈ checkParities, inRange p.1 i = inRange p.1 j := by
  rw [sameGroup_iff] at h
  simp only [checkParities, inRange, List.forall_mem_cons, decide_eq_decide]
  refine ⟨?_, ?_, ?_, ?_, ?_, ?_, List.forall_mem_nil _⟩ <;> omega

/-- The first twenty positions hold no field but the flag `is_dst`. -/
theorem decode_flipBit_of_lt_twenty (f : Frame) {i : Nat} (hi : i < 20) :
    decode (flipBit f i) = { decode f with isDst := bitAt (flipBit f i) 17 } := by
  have hfield : ∀ r : Config.Range, 20 ≤ r.first → bcdField (flipBit f i) r = bcdField f r := fun r hr =>
    bcd_congr fun j hj _ => by rw [bitAt_flipBit f i j (by omega), if_neg (by omega)]
  simp [decode, hfield]

theorem agreeExamined_flipBit (f : Frame) {i : Nat} (hi : i < 59) (h : unexamined i = true) :
    AgreeExamined (flipBit f i) f := fun j hj => by
  rw [bitAt_flipBit f i j hi, if_neg]
  rintro rfl
  simp [h] at hj

/-- Settles O18: only the checks that read the flipped position change, and no field reads an unexamined one. -/
theorem oneFlippedBitIsDetectedWhereExamined : Obligations.OneFlippedBitIsDetectedWhereExamined := by
  intro f i h hi
  have hverdict := validate_flipBit h hi
  exact ⟨fun hexamined => hverdict.trans hexamined,
    fun hunexamined => ⟨hverdict.trans hunexamined, (agreeExamined_flipBit f hi hunexamined).decode_eq⟩⟩

/-- Settles O19: two flips in one check's range cancel; of the fields only `is_dst` reads a flag. -/
theorem twoFlippedBitsOfOneGroupPass : Obligations.TwoFlippedBitsOfOneGroupPass := by
  intro f h
  refine ⟨fun i j _ hgroup => ?_, ?_, ?_⟩
  · have := sameGroup_iff.mp hgroup
    rw [validate_flipBit_flipBit f (by omega) (by omega) (inRange_eq_of_sameGroup hgroup), h]
  · rw [validate_flipBit_flipBit f (by decide) (by decide) (by decide), h]
  · rw [decode_flipBit_of_lt_twenty _ (by decide), decode_flipBit_of_lt_twenty f (by decide)]
    simp [bitAt_flipBit, decode]

end Sys2Proof.Safety

/-! PROOFS. The field decoder (spec/43_field_decoder.md): the weighted sum of DECODE_BCD and its largest values (R141,
R142), the two forms of the sum (R152, R155), and the fields DECODE returns and reads (R140, R153). -/

namespace Sys2Proof.Safety

open Sys2Proof.Machine

/-! ## The weighted sum (R141) -/

theorem bcd_eq_sum (f : Frame) (a n : Nat) :
    bcd f a n = ((List.range n).map fun i => (bitAt f (a + i)).toNat * bcdWeight i).sum := by
  induction n with
  | zero => rfl
  | succ n ih => rw [bcd, ih, List.sum_range_succ]

/-- Settles O21: in its domain the operation returns `bcd`, which is the sum over the bits. -/
theorem decodeBcdReturnsTheWeightedSum : Obligations.DecodeBcdReturnsTheWeightedSum := by
  intro f start n s h1 h8 hindex
  have hsum := execDecodeBcd_of_inside ⟨h1, h8⟩ hindex f s
  rw [bcd_eq_sum] at hsum
  exact hsum

/-! ## The largest sums (R142) -/

/-- The sum of the first `n` weights, which `n` bits that are all 1 give. -/
def largestSum (n : Nat) : Nat := ((List.range n).map bcdWeight).sum

theorem largestSum_eq_getD {n : Nat} (h1 : 1 ≤ n) (h8 : n ≤ 8) :
    largestSum n = [1, 3, 7, 15, 25, 45, 85, 165].getD (n - 1) 0 := by
  have htable : ∀ m < 8, largestSum (m + 1) = [1, 3, 7, 15, 25, 45, 85, 165].getD m 0 := by decide
  obtain ⟨m, rfl⟩ := Nat.exists_eq_add_of_le' h1
  exact htable m (by omega)

/-- A bit adds its weight or nothing. -/
theorem bcd_le_largestSum (f : Frame) (a n : Nat) : bcd f a n ≤ largestSum n := by
  rw [bcd_eq_sum]
  exact List.sum_le_sum fun i _ => mul_le_of_le_one_left (Nat.zero_le _) (Bool.toNat_le _)

theorem bcd_eq_largestSum {f : Frame} {a n : Nat} (h : ∀ i, i < n → bitAt f (a + i) = true) :
    bcd f a n = largestSum n := by
  rw [bcd_eq_sum, largestSum]
  refine congrArg List.sum (List.map_congr_left fun i hi => ?_)
  rw [h i (List.mem_range.mp hi), Bool.toNat_true, Nat.one_mul]

/-- Settles O23: the sum of the weights bounds the sum of the bits; in the frame given, every field but the weekday
reaches it. -/
theorem largestWeightedSums : Obligations.LargestWeightedSums := by
  refine ⟨fun f start n h1 h8 => ?_, 0x3FFFFF7FFFBFFFE#59, by decide⟩
  rw [← largestSum_eq_getD h1 h8]
  exact ⟨bcd_le_largestSum f start n, bcd_eq_largestSum⟩

/-! ## The two digits of a field (R152, R155) -/

/-- Settles O24: the first four weights are binary, the others ten times binary. -/
theorem weightedSumIsOnesPlusTenTimesTens : Obligations.WeightedSumIsOnesPlusTenTimesTens :=
  fun f start _ _ h8 => bcd_eq_ones_add_tens f start h8

/-- Settles O25: the digits of every calendar value fit the positions of its field, and so are read back. -/
theorem calendarValuesSurviveTheWeightedLayout : Obligations.CalendarValuesSurviveTheWeightedLayout := by
  intro f start n v _ hrange hbits
  have hholds : HoldsAt f start (bcdDigits n v) := by simpa [HoldsAt] using hbits
  have hfits : FitsField n v := by
    obtain ⟨rfl, hv⟩ | ⟨rfl, hv⟩ | ⟨rfl, _, hv⟩ | ⟨rfl, hv⟩ | ⟨rfl, _, hv⟩ := hrange
    case inr.inr.inr.inr => exact fitsField_of_le_three (by decide) (by omega)
    all_goals exact fitsField_of_four_le (by decide) (by decide) (by omega)
  exact hholds.bcd_eq hfits

/-! ## The fields DECODE returns (R143 to R150) -/

/-- A field whose width holds its largest sum is returned whole. -/
theorem toNat_rawField (f : Frame) (a : Nat) {n w : Nat} (hw : largestSum n < 2 ^ w) :
    (BitVec.ofNat w (bcd f a n)).toNat = bcd f a n ∧ (BitVec.ofNat w (bcd f a n)).toNat ≤ largestSum n := by
  have hle := bcd_le_largestSum f a n
  have hwhole : (BitVec.ofNat w (bcd f a n)).toNat = bcd f a n := by
    rw [BitVec.toNat_ofNat, Nat.mod_eq_of_lt (hle.trans_lt hw)]
  exact ⟨hwhole, hwhole.trans_le hle⟩

/-- Settles O26: no field's largest sum exceeds the field's width. -/
theorem decodeReturnsTheRawFields : Obligations.DecodeReturnsTheRawFields := by
  intro f s
  obtain ⟨minute, minute_le⟩ := toNat_rawField f 21 (n := 7) (w := 7) (by decide)
  obtain ⟨hour, hour_le⟩ := toNat_rawField f 29 (n := 6) (w := 6) (by decide)
  obtain ⟨day, day_le⟩ := toNat_rawField f 36 (n := 6) (w := 6) (by decide)
  obtain ⟨weekday, weekday_le⟩ := toNat_rawField f 42 (n := 3) (w := 3) (by decide)
  obtain ⟨month, month_le⟩ := toNat_rawField f 45 (n := 5) (w := 5) (by decide)
  obtain ⟨year, year_le⟩ := toNat_rawField f 50 (n := 8) (w := 8) (by decide)
  exact ⟨decode f, rfl, rfl, minute, hour, day, weekday, month, year, rfl,
    minute_le, hour_le, day_le, weekday_le, month_le, year_le⟩

/-! ## The positions DECODE reads (R153) -/

/-- A field whose positions are all read is the same in frames that agree at the positions read. -/
theorem bcdField_eq_of_agree {f g : Frame} (h : ∀ i, readByDecode i = true → bitAt f i = bitAt g i)
    (r : Config.Range) (hr : ∀ i < r.stop, r.first ≤ i → readByDecode i = true) : bcdField f r = bcdField g r :=
  bcd_congr fun i hfirst hstop => h i (hr i (by omega) hfirst)

/-- Settles O27: the ranges of the six fields and the flag `is_dst` hold only positions of R153's list. -/
theorem decodeReadsOnlyItsFields : Obligations.DecodeReadsOnlyItsFields := by
  intro f g h
  rw [decode, bcdField_eq_of_agree h Config.fMinute (by decide), bcdField_eq_of_agree h Config.fHour (by decide),
    bcdField_eq_of_agree h Config.fDay (by decide), bcdField_eq_of_agree h Config.fWeekday (by decide),
    bcdField_eq_of_agree h Config.fMonth (by decide), bcdField_eq_of_agree h Config.fYear (by decide),
    h Config.idxDstA rfl, decode]

end Sys2Proof.Safety

/-! PROOFS. The Decoder (spec/44_decoder_top.md): what each row of the pulse word does (R161, R167 to R170), one step of
the machine (R160, R165, R173), and when a run returns a time (R172). -/

namespace Sys2Proof.Machine

/-! ## A bit in a frame (R167, R168) -/

theorem bitAt_appendBit (b : Bool) (s : State) (h : s.length.val < 59) (j : Nat) :
    bitAt (appendBit b s h).buf j = if j = s.length.val then b else bitAt s.buf j :=
  bitAt_setBit s.buf s.length.val j b h

/-- A bit is stored at `length`, or the frame overflows; BIT0 and BIT1 are the two values of `b`. -/
theorem pushBit_stores_or_overflows (b : Bool) (s : State) : (pushBit b s).result = none ∧
    (s.length.val < 59 → bitAt (pushBit b s).buf s.length.val = b ∧
      (pushBit b s).length.val = s.length.val + 1 ∧
      (∀ i, i ≠ s.length.val → bitAt (pushBit b s).buf i = bitAt s.buf i) ∧
      (pushBit b s).status = .appended ∧ (pushBit b s).check = 0) ∧
    (s.length = 59 → (pushBit b s).length = 0 ∧ (pushBit b s).buf = s.buf ∧
      (pushBit b s).status = .overflow ∧ (pushBit b s).check = 0) := by
  refine ⟨pushBit_result b s, fun hlt => ?_, fun h59 => ?_⟩
  · rw [pushBit_append b s hlt]
    exact ⟨(bitAt_appendBit b s hlt _).trans (if_pos rfl), rfl,
      fun i hi => (bitAt_appendBit b s hlt i).trans (if_neg hi), rfl, rfl⟩
  · rw [pushBit_overflow b s (by simp [h59])]
    exact ⟨rfl, rfl, rfl, rfl⟩

/-- Settles O30: the row is `pushBit` on a 0. -/
theorem bitZeroIsStoredOrOverflows : Obligations.BitZeroIsStoredOrOverflows :=
  fun _ s hmin hmax => ⟨decodePulse_bit0 hmin hmax, pushBit false s, rfl, pushBit_stores_or_overflows false s⟩

/-- Settles O31: the row is `pushBit` on a 1. -/
theorem bitOneIsStoredOrOverflows : Obligations.BitOneIsStoredOrOverflows :=
  fun _ s hmin hmax => ⟨decodePulse_bit1 hmin hmax, pushBit true s, rfl, pushBit_stores_or_overflows true s⟩

/-! ## A minute mark (R169) -/

theorem minuteMark_of_not_closed {s : State} (h : s.length ≠ 59) : minuteMark s = raise .resync 0 s := if_neg h

theorem minuteMark_of_valid {s : State} (h59 : s.length = 59) (hv : validate s.buf = true) :
    minuteMark s = deliver (decode s.buf) (s.setLength 0) := by
  rw [minuteMark, if_pos h59, judgeFrame, if_pos hv]

theorem minuteMark_of_not_valid {s : State} (h59 : s.length = 59) (hv : validate s.buf = false) :
    minuteMark s = raise (failureKind (firstFailingCheck s.buf)) (firstFailingCheck s.buf) (s.setLength 0) := by
  rw [minuteMark, if_pos h59, judgeFrame, if_neg (by simp [hv])]

theorem failureKind_eq_structural_or_parity (c : Fin 7) : failureKind c = .structural ∨ failureKind c = .parity :=
  (failureKind_cases c).imp And.left And.left

/-- Settles O32, by the frame a mark finds: not closed, closed and valid, closed and not valid. -/
theorem markReturnsATimeExactlyForAClosedValidFrame : Obligations.MarkReturnsATimeExactlyForAClosedValidFrame := by
  intro d s hmin hmax
  refine ⟨decodePulse_mark hmin hmax, minuteMark s, rfl, ?_⟩
  by_cases h59 : s.length = 59
  · cases hv : validate s.buf with
    | true =>
      rw [minuteMark_of_valid h59 hv]
      simp [h59]
    | false =>
      rw [minuteMark_of_not_valid h59 hv]
      simp [h59, failureKind_eq_structural_or_parity]
  · rw [minuteMark_of_not_closed h59]
    simp [h59]

/-! ## The rows that only drop the frame (R170) -/

/-- Settles O35: the symbol of each of the five rows is Invalid. -/
theorem invalidPulsesDropTheFrame : Obligations.InvalidPulsesDropTheFrame := by
  intro i d s hi
  have hrow : i.rowSymbol = some .invalid := by
    obtain rfl | rfl | rfl | rfl | rfl := hi <;> rfl
  exact ⟨raise .invalidPulse 0 s, exec_of_rowSymbol_invalid hrow s, rfl, rfl, rfl, rfl, rfl⟩

/-! ## The step function and the rows (R160) -/

/-- Settles O36: the row that a pulse selects does what PUSH_IMPULSE does. -/
theorem pushImpulseEqualsTheRowOfThePulse : Obligations.PushImpulseEqualsTheRowOfThePulse :=
  fun l d s => ⟨pushImpulse l d s, rfl, exec_decodePulse l d s⟩

/-! ## One step of the machine (R165, R173) -/

theorem presented_of_inValid {s : State} {q : PortSample} {rest : List PortSample} (hs : s.input = q :: rest)
    (hrst : q.rst = false) (hvalid : q.inValid = true) : presented s = .pulse ⟨q.inLevel, q.inDuration⟩ := by
  rw [presented, hs]
  simp [readPort, hrst, hvalid]

/-- Settles O37: such a sample presents its pulse, and taking it leaves the rest of the list. -/
theorem stepRunsTheDecodedPulse : Obligations.StepRunsTheDecodedPulse := by
  rintro s q rest i hs hrst hvalid rfl
  rw [step_of_presented (presented_of_inValid hs hrst hvalid), takeSample, hs]
  rfl

/-- Settles O39: a parked and a reset step keep the list left by taking the sample, and so does a pulse. -/
theorem everyStepReturns : Obligations.EveryStepReturns := by
  intro s
  obtain ⟨-, hstep⟩ | ⟨-, hstep⟩ | ⟨p, -, hstep⟩ := step_cases s
  · exact ⟨park (takeSample s), hstep, rfl⟩
  · exact ⟨holdReset (takeSample s), hstep, rfl⟩
  · exact ⟨_, hstep.trans (exec_decodePulse p.level p.durationMs (takeSample s)),
      (storesOnlyAtLength_pushImpulse p.level p.durationMs (takeSample s)).input⟩

end Sys2Proof.Machine

namespace Sys2Proof.Safety

open Sys2Proof.Machine

/-! ## The reset command (R161) -/

/-- Settles O29: with `length` 0 no cell is live, so the run from there is the run from reset. -/
theorem resetCommandEmptiesTheFrame : Obligations.ResetCommandEmptiesTheFrame :=
  fun l s => ⟨decodePulse_zero l, raise .resetCmd 0 s, rfl, rfl, rfl, rfl, rfl, rfl,
    fun ps => staleCellsAreNeverObserved ps _ _ (sameLive_of_length_zero rfl rfl)⟩

/-! ## When a step returns a time (R164, R169) -/

theorem pushImpulse_result_eq_some_iff {l : Level} {d : Nat} {s : State} {t : DecodedTime} :
    (pushImpulse l d s).result = some t ↔
      classify l d = .minuteMark ∧ s.length = 59 ∧ validate s.buf = true ∧ t = decode s.buf := by
  constructor
  · intro ht
    obtain ⟨-, hmark⟩ := mark_of_pushImpulse_result_isSome (l := l) (d := d) (s := s) (by simp [ht])
    rw [pushImpulse_of_minuteMark hmark] at ht
    by_cases h59 : s.length = 59
    · cases hv : validate s.buf with
      | true =>
        rw [minuteMark_of_valid h59 hv] at ht
        exact ⟨hmark, h59, rfl, (Option.some.inj ht).symm⟩
      | false => simp [minuteMark_of_not_valid h59 hv] at ht
    · simp [minuteMark_of_not_closed h59] at ht
  · rintro ⟨hmark, h59, hv, rfl⟩
    rw [pushImpulse_of_minuteMark hmark, minuteMark_of_valid h59 hv, deliver_result]

/-! ## The frame of the last 59 pulses (R172) -/

/-- The bits of a frame in order of arrival. -/
def cellBits (f : Frame) : List Bool := (List.range 59).map (bitAt f)

theorem frameOfBits_cellBits (f : Frame) : frameOfBits (cellBits f) = f :=
  frame_eq_of_bitAt fun i hi => by
    rw [bitAt, getLsbD_frameOfBits _ hi]
    simp [cellBits, hi]

/-- The bits of the pulses that filled a closed frame are its cells. -/
theorem HoldsBitsOf.map_pulseBit_eq {since : List Pulse} {s : State} (h : HoldsBitsOf since s)
    (h59 : s.length = 59) : since.map pulseBit = (cellBits s.buf).map some := by
  have hlen : since.length = 59 := by simp [h.length_eq, h59]
  refine List.ext_getElem (by simp [hlen, cellBits]) fun i hi _ => ?_
  rw [List.length_map] at hi
  obtain ⟨p, hp, hbit⟩ := h.cells i (h.length_eq ▸ hi)
  obtain ⟨_, rfl⟩ := List.getElem?_eq_some_iff.mp hp
  simpa [cellBits] using hbit

/-- At most 59 bits from an empty frame are all stored. -/
theorem holdsBitsOf_feed {since : List Pulse} {s : State} (h0 : s.length = 0) (hlen : since.length ≤ 59)
    (hbits : ∀ p ∈ since, ∃ b, pulseBit p = some b) : HoldsBitsOf since (feed since s) := by
  induction since using List.reverseRecOn with
  | nil => exact holdsBitsOf_nil h0
  | append_singleton since p ih =>
    rw [List.length_append, List.length_singleton] at hlen
    have hholds := ih (by omega) fun q hq => hbits q (List.mem_append_left _ hq)
    obtain ⟨b, hb⟩ := hbits p (by simp)
    have hlt : (feed since s).length.val < 59 := by
      rw [← hholds.length_eq]
      omega
    rw [feed_snoc, pushImpulse_of_bit (pulseBit_eq_some.mp hb), pushBit_append b _ hlt]
    exact hholds.appendBit hb hlt

theorem exists_pulseBit_of_map_eq {since : List Pulse} {bits : List Bool}
    (h : since.map pulseBit = bits.map some) : ∀ p ∈ since, ∃ b, pulseBit p = some b := by
  intro p hp
  have hmem : pulseBit p ∈ bits.map some := h ▸ List.mem_map_of_mem hp
  obtain ⟨b, -, hb⟩ := List.mem_map.mp hmem
  exact ⟨b, hb.symm⟩

/-- A run of 59 bits from an empty frame closes the frame that the bits spell. -/
theorem feed_closes_frameOfBits {since : List Pulse} {bits : List Bool} {s : State} (h0 : s.length = 0)
    (hlen : since.length = 59) (hmap : since.map pulseBit = bits.map some) :
    (feed since s).length = 59 ∧ (feed since s).buf = frameOfBits bits := by
  have hholds := holdsBitsOf_feed h0 hlen.le (exists_pulseBit_of_map_eq hmap)
  have h59 : (feed since s).length = 59 := Fin.ext (hholds.length_eq.symm.trans hlen)
  have hcells : bits = cellBits (feed since s).buf :=
    List.map_injective_iff.mpr (Option.some_injective Bool) (hmap.symm.trans (hholds.map_pulseBit_eq h59))
  exact ⟨h59, by rw [hcells, frameOfBits_cellBits]⟩

/-- Settles O48: the closed frame that a mark judges is that of the last 59 pulses, by the invariant `HoldsBitsOf`. -/
theorem aTimeAppearsExactlyAfterAValidFrame : Obligations.ATimeAppearsExactlyAfterAValidFrame := by
  intro ps m s t h0
  rw [feed_snoc, pushImpulse_result_eq_some_iff, isMarkPulse, decide_eq_true_iff, and_congr_right_iff]
  intro _
  constructor
  · rintro ⟨h59, hv, rfl⟩
    obtain ⟨before, since, hps, hbefore, hholds⟩ := exists_holdsBitsOf_feed ps h0
    exact ⟨before, since, cellBits (feed ps s).buf, hps, hbefore, by simp [hholds.length_eq, h59],
      hholds.map_pulseBit_eq h59, by rwa [frameOfBits_cellBits], by rw [frameOfBits_cellBits]⟩
  · rintro ⟨before, since, bits, rfl, hbefore, hlen, hmap, hv, rfl⟩
    obtain ⟨h59, hbuf⟩ := feed_closes_frameOfBits hbefore hlen hmap
    rw [feed_append, hbuf]
    exact ⟨h59, hv, rfl⟩

/-! ## No time before the frame is full again (R172, 70_reset_and_hazards.md R214) -/

/-- A returned time leaves the frame empty. -/
theorem Consistent.length_zero_of_result {s : State} (h : Consistent s) (hres : s.result.isSome = true) :
    s.length = 0 := by
  have hdecoded : s.status = .decoded := h.result_iff.mp hres
  exact h.length_zero (by simp [hdecoded])

theorem feed_length_le (ps : List Pulse) {s : State} (h0 : s.length = 0) : (feed ps s).length.val ≤ ps.length := by
  obtain ⟨before, since, rfl, -, hholds⟩ := exists_holdsBitsOf_feed ps h0
  rw [← hholds.length_eq, List.length_append]
  omega

/-- Settles O49: fewer than 59 pulses before the last do not close a frame that was empty. -/
theorem noTimeWithinFiftyNineSteps : Obligations.NoTimeWithinFiftyNineSteps := by
  intro ps s hne hlen hstart
  have h0 : s.length = 0 := hstart.elim id fun ⟨hcons, hres⟩ => hcons.length_zero_of_result hres
  obtain ⟨qs, m, rfl⟩ := (List.eq_nil_or_concat' ps).resolve_left hne
  rw [feed_snoc]
  refine Option.eq_none_iff_forall_ne_some.mpr fun t ht => ?_
  obtain ⟨-, h59, -⟩ := pushImpulse_result_eq_some_iff.mp ht
  have hfull : 59 ≤ qs.length := by simpa [h59] using feed_length_le qs h0
  rw [List.length_append, List.length_singleton] at hlen
  omega

end Sys2Proof.Safety

/-! PROOFS. The exceptions of spec/60_exceptions.md: the error kind of a frame that fails a check (R185, R187), the
outputs of every step (R181, R202), and several receivers (R198). -/

namespace Sys2Proof.Machine

/-! ## The error kind and the number of the first failing check (R185, R187) -/

theorem failureKind_of_le_three {c : Fin 7} (h : c.val ≤ 3) : failureKind c = .structural := if_pos h

theorem failureKind_of_four_le {c : Fin 7} (h : 4 ≤ c.val) : failureKind c = .parity := if_neg (by omega)

theorem minuteMark_of_failingCheck {s : State} (h59 : s.length = 59) (hfail : firstFailingCheck s.buf ≠ 0) :
    minuteMark s = raise (failureKind (firstFailingCheck s.buf)) (firstFailingCheck s.buf) (s.setLength 0) :=
  minuteMark_of_not_valid h59 (by rwa [Ne, firstFailingCheck_eq_zero, Bool.not_eq_true] at hfail)

/-! ## No pulse presented (R202) -/

theorem presented_of_no_pulse {s : State}
    (h : s.input = [] ∨ ∃ q rest, s.input = q :: rest ∧ q.rst = false ∧ q.inValid = false) :
    presented s = .nothing := by
  obtain hnil | ⟨q, rest, hcons, hrst, hvalid⟩ := h
  · rw [presented, hnil]
  · rw [presented, hcons]
    simp [readPort, hrst, hvalid]

theorem step_of_nothing {s : State} (h : presented s = .nothing) : step s = .next (park (takeSample s)) := by
  rw [step, h]

/-- Settles O41: a parked block keeps `buf` and `length`, and its result output is cleared. -/
theorem noPulseParksTheBlock : Obligations.NoPulseParksTheBlock :=
  fun s h => ⟨park (takeSample s), step_of_nothing (presented_of_no_pulse h), rfl, rfl, rfl⟩

/-! ## Several receivers (R198) -/

theorem stepReceiver_of_step {k : Nat} {rs : List State} {s t : State} (hk : rs[k]? = some s)
    (hstep : step s = .next t) : stepReceiver k rs = rs.set k t := by
  simp only [stepReceiver, hk, hstep]

/-- Settles O57: the step of a receiver writes its own place of the list only. -/
theorem receiversShareNothing : Obligations.ReceiversShareNothing := by
  intro k rs s hk
  obtain ⟨t, hstep, -⟩ := everyStepReturns s
  have hlt : k < rs.length := (List.getElem?_eq_some_iff.mp hk).1
  rw [stepReceiver_of_step hk hstep]
  exact ⟨t, hstep, List.getElem?_set_self hlt, fun j hj => List.getElem?_set_ne hj.symm⟩

/-- Settles O58, by evaluating the code of each status. -/
theorem statusCodesOfTheTable : Obligations.StatusCodesOfTheTable := rfl

end Sys2Proof.Machine

namespace Sys2Proof.Safety

open Sys2Proof.Machine

/-! ## The first failing check of a closed frame (R185, R187) -/

theorem firstFailingCheck_of_structural {f : Frame}
    (h : bitAt f 0 = true ∨ bitAt f 20 = false ∨ bitAt f 17 = bitAt f 18) :
    (firstFailingCheck f).val = if bitAt f 0 = true then 1 else if bitAt f 20 = false then 2 else 3 := by
  obtain ⟨e, h0⟩ | ⟨e, h0, h20⟩ | ⟨e, h0, h20, -⟩ | ⟨h0, h20, hflags, -⟩ := firstFailingCheck_cases f
  case inr.inr.inr => simp [h0, h20, hflags] at h
  all_goals simp [*]

theorem firstFailingCheck_of_parity {f : Frame} (h0 : bitAt f 0 = false) (h20 : bitAt f 20 = true)
    (hflags : bitAt f 17 ≠ bitAt f 18)
    (h : onesIn f 21 29 % 2 = 1 ∨ onesIn f 29 36 % 2 = 1 ∨ onesIn f 36 59 % 2 = 1) :
    (firstFailingCheck f).val =
      if onesIn f 21 29 % 2 = 1 then 4 else if onesIn f 29 36 % 2 = 1 then 5 else 6 := by
  obtain ⟨-, h0'⟩ | ⟨-, -, h20'⟩ | ⟨-, -, -, hflags'⟩ |
    ⟨-, -, -, ⟨e, h4⟩ | ⟨e, h4, h5⟩ | ⟨e, h4, h5, -⟩ | e⟩ := firstFailingCheck_cases f
  · simp [h0] at h0'
  · simp [h20] at h20'
  · exact absurd hflags' hflags
  · simp [e, h4]
  · simp [e, h4, h5]
  · simp [e, h4, h5]
  · obtain ⟨-, -, -, h4, h5, h6⟩ := (validate_iff_bits f).mp ((firstFailingCheck_eq_zero f).mp e)
    omega

/-- Settles O33: check 1, 2 or 3 fails first, which is the structural kind. -/
theorem structuralViolationIsReportedFirst : Obligations.StructuralViolationIsReportedFirst := by
  intro d s h59 h
  have hcheck := firstFailingCheck_of_structural h
  have hrange : 1 ≤ (firstFailingCheck s.buf).val ∧ (firstFailingCheck s.buf).val ≤ 3 := by
    rw [hcheck]
    split_ifs <;> decide
  have hmark := minuteMark_of_failingCheck h59 (Fin.pos_iff_ne_zero.mp hrange.1)
  exact ⟨_, congrArg Host.Outcome.next hmark, rfl, rfl, failureKind_of_le_three hrange.2, hcheck⟩

/-- Settles O34: checks 1 to 3 hold and one of 4 to 6 fails first, which is the parity kind. -/
theorem parityViolationIsReportedByGroup : Obligations.ParityViolationIsReportedByGroup := by
  intro d s h59 h0 h20 hflags h
  have hcheck := firstFailingCheck_of_parity h0 h20 hflags h
  have hrange : 4 ≤ (firstFailingCheck s.buf).val := by
    rw [hcheck]
    split_ifs <;> decide
  have hmark := minuteMark_of_failingCheck h59 (Fin.pos_iff_ne_zero.mp (Nat.zero_lt_of_lt hrange))
  exact ⟨_, congrArg Host.Outcome.next hmark, rfl, rfl, failureKind_of_four_le hrange, hcheck⟩

/-! ## The outputs of every step agree (R181, 30_encoding.md R74) -/

/-- The status and check number that a step without a result may show. -/
structure FitsNoResult (k : Status) (c : Fin 7) : Prop where
  not_decoded : k ≠ .decoded
  check_iff : c ≠ 0 ↔ k = .structural ∨ k = .parity
  structural_check : k = .structural → c.val ≤ 3
  parity_check : k = .parity → 4 ≤ c.val

theorem fitsNoResult_failureKind {c : Fin 7} (hc : c ≠ 0) : FitsNoResult (failureKind c) c := by
  obtain ⟨hkind, hle⟩ | ⟨hkind, hle⟩ := failureKind_cases c
  all_goals exact hkind ▸ ⟨by decide, by simp [hc], by simp [hle], by simp [hle]⟩

theorem fitsNoResult_zero {k : Status} (hd : k ≠ .decoded) (hs : k ≠ .structural) (hp : k ≠ .parity) :
    FitsNoResult k 0 :=
  ⟨hd, by simp [hs, hp], fun h => absurd h hs, fun h => absurd h hp⟩

theorem FitsNoResult.consistent {s : State} (h : FitsNoResult s.status s.check) (hres : s.result = none)
    (hlen : s.status ≠ .appended → s.length = 0) (hv : s.value = none) : Consistent s where
  result_iff := by simp [hres, h.not_decoded]
  check_iff := h.check_iff
  structural_check := h.structural_check
  parity_check := h.parity_check
  length_zero := hlen
  result_range t ht := by simp [hres] at ht
  no_value := hv

theorem FitsNoResult.consistent_raise {k : Status} {c : Fin 7} (h : FitsNoResult k c) {s : State}
    (hv : s.value = none) : Consistent (raise k c s) :=
  FitsNoResult.consistent (s := raise k c s) h rfl (fun _ => rfl) hv

/-- The outputs of an append, and of a step that takes no pulse. -/
theorem consistent_of_appended {s : State} (hres : s.result = none) (hstatus : s.status = .appended)
    (hcheck : s.check = 0) (hv : s.value = none) : Consistent s := by
  refine FitsNoResult.consistent ?_ hres (fun h => absurd hstatus h) hv
  rw [hstatus, hcheck]
  exact fitsNoResult_zero (by decide) (by decide) (by decide)

theorem consistent_deliver_decode (f : Frame) {s : State} (h0 : s.length = 0) (hv : s.value = none) :
    Consistent (deliver (decode f) s) where
  result_iff := by simp
  check_iff := by simp
  structural_check := by simp
  parity_check := by simp
  length_zero _ := h0
  result_range t ht := by
    cases ht
    obtain ⟨t, hexec, second, -, -, -, -, -, -, -, minute, hour, day, -, month, year⟩ :=
      decodeReturnsTheRawFields f s
    cases hexec
    exact ⟨second, minute, hour, day, month, year⟩
  no_value := hv

theorem consistent_pushImpulse (l : Level) (d : Nat) {s : State} (hv : s.value = none) :
    Consistent (pushImpulse l d s) := by
  obtain ⟨-, e⟩ | ⟨-, -, e⟩ | ⟨-, b, h, -, e⟩ | ⟨-, b, -, -, e⟩ | ⟨-, -, -, e⟩ | ⟨-, -, -, -, e⟩ |
    ⟨-, -, -, hfail, e⟩ := pushImpulse_cases l d s <;> rw [e]
  case inr.inr.inl => exact consistent_of_appended rfl rfl rfl hv
  case inr.inr.inr.inr.inr.inl => exact consistent_deliver_decode s.buf rfl hv
  case inr.inr.inr.inr.inr.inr =>
    have hc : firstFailingCheck s.buf ≠ 0 := by simp [firstFailingCheck_eq_zero, hfail]
    exact (fitsNoResult_failureKind hc).consistent_raise hv
  all_goals exact (fitsNoResult_zero (by decide) (by decide) (by decide)).consistent_raise hv

/-- Settles O43: of the state before, only that no internal value stands is used; the step sets the outputs anew. -/
theorem stepKeepsTheOutputsConsistent : Obligations.StepKeepsTheOutputsConsistent := by
  intro s t hs ht
  have hv : (takeSample s).value = none := hs.no_value
  obtain ⟨-, hstep⟩ | ⟨-, hstep⟩ | ⟨p, -, hstep⟩ := step_cases s
  · cases hstep.symm.trans ht
    exact consistent_of_appended rfl rfl rfl hv
  · cases hstep.symm.trans ht
    exact consistent_of_appended rfl rfl rfl hv
  · cases (hstep.trans (exec_decodePulse p.level p.durationMs (takeSample s))).symm.trans ht
    exact consistent_pushImpulse p.level p.durationMs hv

end Sys2Proof.Safety

/-! PROOFS. The hazards of spec/70_reset_and_hazards.md: the external reset (R210, R211) and durations that the capture
unit clamps or rounds (R217, R218). -/

namespace Sys2Proof.Machine

/-! ## The external reset (R210, R211) -/

/-- `rst` is read before `in_valid`, so a pulse in the same sample is not presented. -/
theorem presented_of_rst {s : State} {q : PortSample} {rest : List PortSample} (hs : s.input = q :: rest)
    (hrst : q.rst = true) : presented s = .reset := by
  rw [presented, hs]
  exact if_pos hrst

theorem step_of_reset {s : State} (h : presented s = .reset) : step s = .next (holdReset (takeSample s)) := by
  rw [step, h]

/-- Settles O40: the sample is taken and the block held in reset, whatever pulse the sample carries. -/
theorem externalResetIgnoresThePulse : Obligations.ExternalResetIgnoresThePulse :=
  fun s _ _ hs hrst => ⟨holdReset (takeSample s), step_of_reset (presented_of_rst hs hrst), rfl, rfl, rfl,
    congrArg List.tail hs⟩

/-! ## Clamped and rounded durations (R217, R218) -/

/-- No window of either level reaches beyond 1400 ms (40_pulse_classifier.md R94, R95). -/
theorem classify_of_long (l : Level) {d : Nat} (hd : 1400 < d) : classify l d = .invalid := by
  rw [classify_eq_invalid_iff]
  cases l with
  | low => exact .inl ⟨rfl, .inr hd⟩
  | high => exact .inr ⟨rfl, .inr (.inr (by omega))⟩

theorem pushImpulse_of_long (l : Level) {d : Nat} (hd : 1400 < d) (s : State) :
    pushImpulse l d s = raise .invalidPulse 0 s :=
  pushImpulse_of_invalid (by omega) (classify_of_long l hd) s

/-- A duration above the clamp value `m`, and `m` itself, are both long when `m` is. -/
theorem pushImpulse_min {m : Nat} (hm : 1400 < m) (l : Level) (d : Nat) (s : State) :
    pushImpulse l (min d m) s = pushImpulse l d s := by
  obtain hlt | hle := Nat.lt_or_ge m d
  · rw [Nat.min_eq_right hlt.le, pushImpulse_of_long l hm, pushImpulse_of_long l (hm.trans hlt)]
  · rw [Nat.min_eq_left hle]

/-- Settles O59: from width 11 the clamp value is at least 2047; and an Invalid pulse and a reset command are the same
`raise` but for the status. -/
theorem clampingLosesNothingAndRoundingToZeroShowsInStatusOnly :
    Obligations.ClampingLosesNothingAndRoundingToZeroShowsInStatusOnly := by
  refine ⟨fun w l d s hw => congrArg Host.Outcome.next (pushImpulse_min ?_ l d s), fun l d s hd hc => ?_⟩
  · have hpow := Laws.EncodedWordFits.pow_ge hw
    omega
  · exact ⟨raise .invalidPulse 0 s, raise .resetCmd 0 s,
      congrArg Host.Outcome.next (pushImpulse_of_invalid hd hc s),
      congrArg Host.Outcome.next (pushImpulse_zero l s), rfl, rfl, rfl⟩

end Sys2Proof.Machine

/-! PROOFS. The numbers outside the pulse word of spec/30_encoding.md section 1. -/

namespace Sys2Proof

/-! ## Numbers that are no pulse word (log entry 6) -/

/-- `unpackPulse` answers exactly on the numbers of at most `w + 1` bits (R62). -/
theorem unpackPulse_eq_none_iff {w word : Nat} : unpackPulse w word = none ↔ 2 ^ (w + 1) ≤ word := by
  simp [unpackPulse]

theorem decodeWord_of_unpackPulse_eq_none {w word : Nat} (h : unpackPulse w word = none) :
    decodeWord w word = .rejected (.notAPulseWord word) := by
  rw [decodeWord, h]

/-- Settles O6: such a number does not unpack to a pulse, and that is what the decoder rejects. -/
theorem numbersBeyondThePulseWordAreRejected : Obligations.NumbersBeyondThePulseWordAreRejected :=
  fun _ _ hword => decodeWord_of_unpackPulse_eq_none (unpackPulse_eq_none_iff.mpr hword)

end Sys2Proof
